-- ==== Sys2Proof/Word.lean ====
section
/-! DEFINITION. The octet and the octet string (00 R8, R9): the two units every rule of the spec is written in. -/

namespace Sys2Proof

/-- An octet is 8 bits, bit 0 the least significant (00 R8). -/
abbrev Octet := BitVec 8

/-- A frame, a key or a block: a finite octet string indexed from 0 (00 R9). -/
abbrev Octets := List Octet

end Sys2Proof
end

