-- ==== Sys2Proof/Syntax.lean ====
section
/-! DEFINITION. The command set (30 R91): one constructor per row of the opcode table. -/

namespace Sys2Proof

/-- The ten commands of the block (00 R3; 30 R91). `slot` is the `SLOT` field, an unsigned 8-bit number (30 R90). -/
inductive Instr where
  /-- install a CCMP key (42 R180) -/
  | ccmpSetKey (slot : BitVec 8)
  /-- uninstall a CCMP key (42 R181) -/
  | ccmpDeleteKey (slot : BitVec 8)
  /-- encrypt one frame under CCMP (42 R188) -/
  | ccmpEncrypt (slot : BitVec 8)
  /-- decrypt one frame under CCMP (42 R190) -/
  | ccmpDecrypt (slot : BitVec 8)
  /-- install a TKIP key (44 R241) -/
  | tkipSetKey (slot : BitVec 8)
  /-- uninstall a TKIP key (44 R242) -/
  | tkipDeleteKey (slot : BitVec 8)
  /-- encrypt one frame under TKIP (44 R243) -/
  | tkipEncrypt (slot : BitVec 8)
  /-- decrypt one frame under TKIP (44 R247) -/
  | tkipDecrypt (slot : BitVec 8)
  /-- the standalone Michael MIC (44 R250) -/
  | tkipMic
  /-- the MIC-failure entry point (46 R308) -/
  | micFailure
deriving DecidableEq, Repr

/-- The key slot a command names, if it takes one (30 R91, column "takes SLOT"). -/
def Instr.slot? : Instr → Option (BitVec 8)
  | .ccmpSetKey n => some n
  | .ccmpDeleteKey n => some n
  | .ccmpEncrypt n => some n
  | .ccmpDecrypt n => some n
  | .tkipSetKey n => some n
  | .tkipDeleteKey n => some n
  | .tkipEncrypt n => some n
  | .tkipDecrypt n => some n
  | .tkipMic => none
  | .micFailure => none

end Sys2Proof
end

