-- ==== Sys2Proof/WellFormed.lean ====
section
/-! DEFINITION. Which commands are legal on a block with `nkeys` key slots (30 R92). -/

namespace Sys2Proof

/-- A command that takes a slot is legal only when `SLOT < NKEYS` (30 R92); the others name no slot. -/
def Instr.wellFormed (nkeys : Nat) (i : Instr) : Bool :=
  match i.slot? with
  | some n => decide (n.toNat < nkeys)
  | none => true

end Sys2Proof
end

