-- ==== Sys2Proof/Decode.lean ====
section
/-! DEFINITION. The command word (30 R90 to R93): the decoder, total on every 32-bit word and rejecting by name, and
the encoder. -/

namespace Sys2Proof

/-- Why a word is illegal (30 R92). -/
inductive DecodeError where
  /-- `w[31:16] != 0` -/
  | reservedBits
  /-- `w[7:0]` is none of the ten codes of 30 R91 -/
  | unassignedOp
  /-- the command takes no slot and `w[15:8] != 0` -/
  | slotNotZero
  /-- the command takes a slot and `w[15:8] >= NKEYS` -/
  | slotOutOfRange
deriving DecidableEq, Repr

/-- The `OP` field, bits 7:0 (30 R90). -/
def opField (w : BitVec 32) : BitVec 8 := w.extractLsb' 0 8

/-- The `SLOT` field, bits 15:8 (30 R90). -/
def slotField (w : BitVec 32) : BitVec 8 := w.extractLsb' 8 8

/-- The reserved field, bits 31:16 (30 R90). -/
def reservedField (w : BitVec 32) : BitVec 16 := w.extractLsb' 16 16

/-- A command without a slot: its `SLOT` field must be 0 (30 R92, D34). -/
def decodeNoSlot (w : BitVec 32) (i : Instr) : Except DecodeError Instr :=
  if slotField w = 0 then .ok i else .error .slotNotZero

/-- The row of 30 R91 a word selects, whatever the number of slots. -/
def decode (w : BitVec 32) : Except DecodeError Instr :=
  if reservedField w ≠ 0 then .error .reservedBits
  else
    match (opField w).toNat with
    | 0x01 => .ok (.ccmpSetKey (slotField w))
    | 0x02 => .ok (.ccmpDeleteKey (slotField w))
    | 0x03 => .ok (.ccmpEncrypt (slotField w))
    | 0x04 => .ok (.ccmpDecrypt (slotField w))
    | 0x11 => .ok (.tkipSetKey (slotField w))
    | 0x12 => .ok (.tkipDeleteKey (slotField w))
    | 0x13 => .ok (.tkipEncrypt (slotField w))
    | 0x14 => .ok (.tkipDecrypt (slotField w))
    | 0x15 => decodeNoSlot w .tkipMic
    | 0x16 => decodeNoSlot w .micFailure
    | _ => .error .unassignedOp

/-- The decoding of a word by a block with `nkeys` key slots: all of 30 R92. -/
def decodeFor (nkeys : Nat) (w : BitVec 32) : Except DecodeError Instr :=
  match decode w with
  | .error e => .error e
  | .ok i => if i.wellFormed nkeys then .ok i else .error .slotOutOfRange

/-- The operation code of a command (30 R91). -/
def opcode : Instr → BitVec 8
  | .ccmpSetKey _ => 0x01
  | .ccmpDeleteKey _ => 0x02
  | .ccmpEncrypt _ => 0x03
  | .ccmpDecrypt _ => 0x04
  | .tkipSetKey _ => 0x11
  | .tkipDeleteKey _ => 0x12
  | .tkipEncrypt _ => 0x13
  | .tkipDecrypt _ => 0x14
  | .tkipMic => 0x15
  | .micFailure => 0x16

/-- The command word `(s << 8) | OP` of a command, `s = 0` where none is taken (30 R90, R94). -/
def encode (i : Instr) : BitVec 32 := ((i.slot?.getD 0).setWidth 32 <<< 8) ||| (opcode i).setWidth 32

/-- The instruction the decoder reads from the low `nbits` bits of `w`, every bit above them 0. The block's word is one
32-bit word, so there is no byte order to apply (30 R90; 20 R67). -/
def decodeTableWord (nbits w : Nat) : Option Instr :=
  match decode (BitVec.ofNat 32 (w % 2 ^ nbits)) with
  | .ok i => some i
  | .error _ => none

end Sys2Proof
end

