-- ==== Sys2Proof/Machine/Bits.lean ====
section
/-! DEFINITION. The octet-string and integer helpers of 00 R9 and R10. -/

namespace Sys2Proof

/-- `s[i]`, octet `i` of a string (00 R9). Every rule reads only octets that exist; past the end this is 0. -/
def oct (s : Octets) (i : Nat) : Octet := s.getD i 0

/-- `s[i..j)`, octets `i` to `j - 1` (00 R9). -/
def slice (s : Octets) (i j : Nat) : Octets := (s.drop i).take (j - i)

/-- `zeros(n)` (00 R9). -/
def zeros (n : Nat) : Octets := List.replicate n 0

/-- `a xor b`, octet-wise (00 R9). -/
def xorOctets (a b : Octets) : Octets := List.zipWith (· ^^^ ·) a b

/-- `Lo8(v) = v[7:0]` (00 R10). -/
def lo8 (v : BitVec 16) : Octet := v.extractLsb' 0 8

/-- `Hi8(v) = v[15:8]` (00 R10). -/
def hi8 (v : BitVec 16) : Octet := v.extractLsb' 8 8

/-- `Lo16(v) = v[15:0]` (00 R10). -/
def lo16 (v : BitVec 32) : BitVec 16 := v.extractLsb' 0 16

/-- `Hi16(v) = v[31:16]` (00 R10). -/
def hi16 (v : BitVec 32) : BitVec 16 := v.extractLsb' 16 16

/-- `Mk16(hi, lo) = hi * 256 + lo` (00 R10). -/
def mk16 (hi lo : Octet) : BitVec 16 := (hi ++ lo : BitVec (8 + 8))

/-- `LE16(s, i)` (00 R10). -/
def le16 (s : Octets) (i : Nat) : BitVec 16 := mk16 (oct s (i + 1)) (oct s i)

/-- `LE32(s, i)` (00 R10). -/
def le32 (s : Octets) (i : Nat) : BitVec 32 :=
  (oct s (i + 3) ++ oct s (i + 2) ++ oct s (i + 1) ++ oct s i : BitVec (8 + 8 + 8 + 8))

/-- `BE16(v)`: the octets `Hi8(v), Lo8(v)` (00 R10). -/
def be16 (v : BitVec 16) : Octets := [hi8 v, lo8 v]

/-- `le32_bytes(v)` (00 R10). -/
def le32Bytes (v : BitVec 32) : Octets :=
  [v.extractLsb' 0 8, v.extractLsb' 8 8, v.extractLsb' 16 8, v.extractLsb' 24 8]

/-- `TK16(TK, n) = Mk16(TK[2n+1], TK[2n])` (00 R10; 43 R222). -/
def tk16 (tk : Octets) (n : Nat) : BitVec 16 := mk16 (oct tk (2 * n + 1)) (oct tk (2 * n))

/-- `rotl32(v, n)` (00 R10). -/
def rotl32 (v : BitVec 32) (n : Nat) : BitVec 32 := v.rotateLeft n

/-- `rotr32(v, n)` (00 R10). -/
def rotr32 (v : BitVec 32) (n : Nat) : BitVec 32 := v.rotateRight n

/-- `RotR1(v) = (v >> 1) + (v[0] << 15)` (00 R10). -/
def rotR1 (v : BitVec 16) : BitVec 16 := (v >>> 1) + (v <<< 15)

/-- `swap16(v) = Mk16(Lo8(v), Hi8(v))` (00 R10). -/
def swap16 (v : BitVec 16) : BitVec 16 := mk16 (lo8 v) (hi8 v)

/-- Octet `k` of a 48-bit counter, `k = 0` least significant: `PNk`, `TSCk` (00 section 6; 30 R100, R110). -/
def pnOctet (pn : BitVec 48) (k : Nat) : Octet := pn.extractLsb' (8 * k) 8

/-- The 48-bit counter whose octets are the arguments, least significant last (30 R101, R111). -/
def mkPn (p5 p4 p3 p2 p1 p0 : Octet) : BitVec 48 :=
  (p5 ++ p4 ++ p3 ++ p2 ++ p1 ++ p0 : BitVec (8 + 8 + 8 + 8 + 8 + 8))

/-- `IV32 = PN[47:16]` (00 section 6). -/
def iv32 (pn : BitVec 48) : BitVec 32 := pn.extractLsb' 16 32

/-- `IV16 = PN[15:0]` (00 section 6). -/
def iv16 (pn : BitVec 48) : BitVec 16 := pn.extractLsb' 0 16

end Sys2Proof
end

