-- ==== Sys2Proof/Machine/Aes.lean ====
section
/-! DEFINITION. The AES-128 encryption unit (41 R145 to R149). -/

namespace Sys2Proof

/-- One column of the AES state, and one 4-octet word `w[i]` of the key schedule (41 R146, R148). -/
structure Column where
  r0 : Octet
  r1 : Octet
  r2 : Octet
  r3 : Octet
deriving DecidableEq, Repr

/-- One 16-octet block: octet `r + 4c` is row `r`, column `c` (41 R146). -/
structure Block where
  c0 : Column
  c1 : Column
  c2 : Column
  c3 : Column
deriving DecidableEq, Repr

/-- Octet-wise exclusive-or of two columns. -/
def Column.xor (a b : Column) : Column := ⟨a.r0 ^^^ b.r0, a.r1 ^^^ b.r1, a.r2 ^^^ b.r2, a.r3 ^^^ b.r3⟩

/-- Octet-wise exclusive-or of two blocks. -/
def Block.xor (a b : Block) : Block := ⟨a.c0.xor b.c0, a.c1.xor b.c1, a.c2.xor b.c2, a.c3.xor b.c3⟩

/-- The four octets of a column, row 0 first. -/
def Column.octets (a : Column) : Octets := [a.r0, a.r1, a.r2, a.r3]

/-- The sixteen octets of a block, octet 0 first (41 R146). -/
def Block.octets (b : Block) : Octets := b.c0.octets ++ b.c1.octets ++ b.c2.octets ++ b.c3.octets

/-- The column that starts at octet `i` of a string. -/
def columnAt (s : Octets) (i : Nat) : Column := ⟨oct s i, oct s (i + 1), oct s (i + 2), oct s (i + 3)⟩

/-- The block a string of at most 16 octets stands for, filled up with zero octets (41 R146; 42 R186
"zero-padded"). -/
def blockOf (s : Octets) : Block := ⟨columnAt s 0, columnAt s 4, columnAt s 8, columnAt s 12⟩

/-- The S-box table of 41 R147: row the high nibble of the index, column the low nibble. -/
def sboxTable : List (List Nat) := [
  [0x63, 0x7C, 0x77, 0x7B, 0xF2, 0x6B, 0x6F, 0xC5, 0x30, 0x01, 0x67, 0x2B, 0xFE, 0xD7, 0xAB, 0x76],
  [0xCA, 0x82, 0xC9, 0x7D, 0xFA, 0x59, 0x47, 0xF0, 0xAD, 0xD4, 0xA2, 0xAF, 0x9C, 0xA4, 0x72, 0xC0],
  [0xB7, 0xFD, 0x93, 0x26, 0x36, 0x3F, 0xF7, 0xCC, 0x34, 0xA5, 0xE5, 0xF1, 0x71, 0xD8, 0x31, 0x15],
  [0x04, 0xC7, 0x23, 0xC3, 0x18, 0x96, 0x05, 0x9A, 0x07, 0x12, 0x80, 0xE2, 0xEB, 0x27, 0xB2, 0x75],
  [0x09, 0x83, 0x2C, 0x1A, 0x1B, 0x6E, 0x5A, 0xA0, 0x52, 0x3B, 0xD6, 0xB3, 0x29, 0xE3, 0x2F, 0x84],
  [0x53, 0xD1, 0x00, 0xED, 0x20, 0xFC, 0xB1, 0x5B, 0x6A, 0xCB, 0xBE, 0x39, 0x4A, 0x4C, 0x58, 0xCF],
  [0xD0, 0xEF, 0xAA, 0xFB, 0x43, 0x4D, 0x33, 0x85, 0x45, 0xF9, 0x02, 0x7F, 0x50, 0x3C, 0x9F, 0xA8],
  [0x51, 0xA3, 0x40, 0x8F, 0x92, 0x9D, 0x38, 0xF5, 0xBC, 0xB6, 0xDA, 0x21, 0x10, 0xFF, 0xF3, 0xD2],
  [0xCD, 0x0C, 0x13, 0xEC, 0x5F, 0x97, 0x44, 0x17, 0xC4, 0xA7, 0x7E, 0x3D, 0x64, 0x5D, 0x19, 0x73],
  [0x60, 0x81, 0x4F, 0xDC, 0x22, 0x2A, 0x90, 0x88, 0x46, 0xEE, 0xB8, 0x14, 0xDE, 0x5E, 0x0B, 0xDB],
  [0xE0, 0x32, 0x3A, 0x0A, 0x49, 0x06, 0x24, 0x5C, 0xC2, 0xD3, 0xAC, 0x62, 0x91, 0x95, 0xE4, 0x79],
  [0xE7, 0xC8, 0x37, 0x6D, 0x8D, 0xD5, 0x4E, 0xA9, 0x6C, 0x56, 0xF4, 0xEA, 0x65, 0x7A, 0xAE, 0x08],
  [0xBA, 0x78, 0x25, 0x2E, 0x1C, 0xA6, 0xB4, 0xC6, 0xE8, 0xDD, 0x74, 0x1F, 0x4B, 0xBD, 0x8B, 0x8A],
  [0x70, 0x3E, 0xB5, 0x66, 0x48, 0x03, 0xF6, 0x0E, 0x61, 0x35, 0x57, 0xB9, 0x86, 0xC1, 0x1D, 0x9E],
  [0xE1, 0xF8, 0x98, 0x11, 0x69, 0xD9, 0x8E, 0x94, 0x9B, 0x1E, 0x87, 0xE9, 0xCE, 0x55, 0x28, 0xDF],
  [0x8C, 0xA1, 0x89, 0x0D, 0xBF, 0xE6, 0x42, 0x68, 0x41, 0x99, 0x2D, 0x0F, 0xB0, 0x54, 0xBB, 0x16]]

/-- `SBOX[a]` (41 R147). -/
def sbox (a : Octet) : Octet :=
  BitVec.ofNat 8 ((sboxTable.getD (a.toNat / 16) []).getD (a.toNat % 16) 0)

/-- `xtime(a)`, which is `mul2(a)`: doubling in GF(2^8) (41 R146). -/
def mul2 (a : Octet) : Octet := (a <<< 1) ^^^ (if a.msb then 0x1B else 0)

/-- `mul3(a) = xtime(a) xor a` (41 R146). -/
def mul3 (a : Octet) : Octet := mul2 a ^^^ a

/-- SubBytes on one column, and SubWord (41 R148, R149). -/
def Column.sub (a : Column) : Column := ⟨sbox a.r0, sbox a.r1, sbox a.r2, sbox a.r3⟩

/-- SubBytes (41 R149). -/
def Block.subBytes (s : Block) : Block := ⟨s.c0.sub, s.c1.sub, s.c2.sub, s.c3.sub⟩

/-- ShiftRows: `s'[row + 4 col] = s[row + 4 ((col + row) mod 4)]` (41 R149). -/
def Block.shiftRows (s : Block) : Block :=
  ⟨⟨s.c0.r0, s.c1.r1, s.c2.r2, s.c3.r3⟩, ⟨s.c1.r0, s.c2.r1, s.c3.r2, s.c0.r3⟩,
   ⟨s.c2.r0, s.c3.r1, s.c0.r2, s.c1.r3⟩, ⟨s.c3.r0, s.c0.r1, s.c1.r2, s.c2.r3⟩⟩

/-- MixColumns on one column (41 R149). -/
def Column.mix (a : Column) : Column :=
  ⟨mul2 a.r0 ^^^ mul3 a.r1 ^^^ a.r2 ^^^ a.r3, a.r0 ^^^ mul2 a.r1 ^^^ mul3 a.r2 ^^^ a.r3,
   a.r0 ^^^ a.r1 ^^^ mul2 a.r2 ^^^ mul3 a.r3, mul3 a.r0 ^^^ a.r1 ^^^ a.r2 ^^^ mul2 a.r3⟩

/-- MixColumns (41 R149). -/
def Block.mixColumns (s : Block) : Block := ⟨s.c0.mix, s.c1.mix, s.c2.mix, s.c3.mix⟩

/-- `RCON[0..9]` (41 R148). -/
def rcon : Octets := [0x01, 0x02, 0x04, 0x08, 0x10, 0x20, 0x40, 0x80, 0x1B, 0x36]

/-- RotWord (41 R148). -/
def Column.rotWord (a : Column) : Column := ⟨a.r1, a.r2, a.r3, a.r0⟩

/-- One round key from the one before it: `w[4r .. 4r+3]` from `w[4r-4 .. 4r-1]` and `RCON[r-1]` (41 R148). -/
def nextRoundKey (k : Block) (rc : Octet) : Block :=
  let t := (k.c3.rotWord).sub
  let w0 := k.c0.xor ⟨t.r0 ^^^ rc, t.r1, t.r2, t.r3⟩
  let w1 := k.c1.xor w0
  let w2 := k.c2.xor w1
  let w3 := k.c3.xor w2
  ⟨w0, w1, w2, w3⟩

/-- The round keys from `k` on, one more for each round constant. -/
def expandFrom (k : Block) : Octets → List Block
  | [] => [k]
  | rc :: rcs => k :: expandFrom (nextRoundKey k rc) rcs

/-- `AES_expand(K) → rk[0..10]` for a 16-octet key (41 R148). -/
def aesExpand (key : Octets) : List Block := expandFrom (blockOf key) rcon

/-- The rounds of 41 R149 over the round keys left; the last one has no MixColumns. -/
def aesRounds : List Block → Block → Block
  | [], s => s
  | [k], s => (s.subBytes.shiftRows).xor k
  | k :: ks, s => aesRounds ks ((s.subBytes.shiftRows.mixColumns).xor k)

/-- `AES(rk, B)`: encryption of one block under an expanded key (41 R145, R149). -/
def aes (rk : List Block) (b : Block) : Block :=
  match rk with
  | [] => b
  | k :: ks => aesRounds ks (b.xor k)

end Sys2Proof
end

