-- ==== Sys2Proof/Machine/Crc.lean ====
section
/-! DEFINITION. The CRC-32-LE unit and the ICV (41 R166, R168). -/

namespace Sys2Proof

/-- One bit of the reflected update (41 R166). -/
def crcBit (c : BitVec 32) : BitVec 32 := (c >>> 1) ^^^ (if c.getLsbD 0 then 0xEDB88320 else 0)

/-- The update with one octet: the octet into the low 8 bits, then eight bit steps (41 R166). -/
def crcOctet (c : BitVec 32) (d : Octet) : BitVec 32 :=
  crcBit (crcBit (crcBit (crcBit (crcBit (crcBit (crcBit (crcBit (c ^^^ d.setWidth 32))))))))

/-- `crc32_update(crc, data)` (41 R166). -/
def crcUpdate (c : BitVec 32) (data : Octets) : BitVec 32 := data.foldl crcOctet c

/-- `ICV(data)`: the complement of the running value, little-endian (41 R168). -/
def icv (data : Octets) : Octets := le32Bytes (crcUpdate 0xFFFFFFFF data ^^^ 0xFFFFFFFF)

end Sys2Proof
end

