-- ==== Sys2Proof/Machine/Header.lean ====
section
/-! DEFINITION. The header inspection unit (component C3): pure functions of a frame `F` (40 R130 to R138). -/

namespace Sys2Proof

/-- `ftype(F) = F[0] & 0x0C` (40 R131). -/
def ftype (F : Octets) : Octet := oct F 0 &&& 0x0C

/-- The frame is a management frame: `ftype(F) = 0x00` (40 R131). -/
def isMgmt (F : Octets) : Bool := ftype F == 0x00

/-- The frame type is DATA: `ftype(F) = 0x08` (40 R131). -/
def isData (F : Octets) : Bool := ftype F == 0x08

/-- The four values of the two direction bits of `FC[1]` (40 R132; 30 R114). -/
inductive Direction where
  | nods | tods | fromds | dstods
deriving DecidableEq, Repr

/-- The direction of a frame: NODS 0, TODS 1, FROMDS 2, DSTODS 3 (40 R132). -/
def direction (F : Octets) : Direction :=
  match (oct F 1 &&& 0x03).toNat with
  | 0 => .nods
  | 1 => .tods
  | 2 => .fromds
  | _ => .dstods

/-- `has_addr4(F)`: both direction bits set (40 R132). -/
def hasAddr4 (F : Octets) : Bool := oct F 1 &&& 0x03 == 0x03

/-- `has_qos(F)`: `F[0] & 0x8C = 0x88` (40 R133). -/
def hasQos (F : Octets) : Bool := oct F 0 &&& 0x8C == 0x88

/-- `has_htc(F)`: ORDER set on a QoS data frame or a management frame (40 R133). -/
def hasHtc (F : Octets) : Bool := (oct F 1 &&& 0x80 != 0) && (hasQos F || isMgmt F)

/-- `hdrlen(F)` (40 R134). -/
def hdrlen (F : Octets) : Nat :=
  24 + (if hasAddr4 F then 6 else 0) + (if hasQos F then 2 else 0) + (if hasHtc F then 4 else 0)

/-- Header admission `header_ok(F)`; the length of `F` is `INLEN` (40 R135). -/
def headerOk (F : Octets) : Bool :=
  decide (2 ≤ F.length) && (isMgmt F || isData F) && decide (hdrlen F ≤ F.length)

/-- The offset of the QoS control field: 30 with Address 4, else 24 (40 R130, R136). -/
def qosOffset (F : Octets) : Nat := if hasAddr4 F then 30 else 24

/-- `get_qos(F)`: the QoS control field, little-endian (40 R136). -/
def getQos (F : Octets) : BitVec 16 := le16 F (qosOffset F)

/-- `get_tid(F)`: the low four bits of the QoS control, 0 without QoS (40 R137). -/
def getTid (F : Octets) : BitVec 4 := if hasQos F then (getQos F).extractLsb' 0 4 else 0

/-- Address 1, `F[4..10)` (40 R130). -/
def addr1 (F : Octets) : Octets := slice F 4 10

/-- Address 2, the transmitter address TA, `F[10..16)` (40 R130; 43 R222). -/
def addr2 (F : Octets) : Octets := slice F 10 16

/-- Address 3, `F[16..22)` (40 R130). -/
def addr3 (F : Octets) : Octets := slice F 16 22

/-- Address 4, `F[24..30)`, present only when `has_addr4` (40 R130). -/
def addr4 (F : Octets) : Octets := slice F 24 30

/-- A header with the PROTECTED bit (bit 6 of octet 1) cleared (42 R189). -/
def clearProtected (h : Octets) : Octets := h.set 1 (oct h 1 &&& 0xBF)

end Sys2Proof
end

