-- ==== Sys2Proof/Machine/Michael.lean ====
section
/-! DEFINITION. The Michael MIC accumulator (41 R160 to R164). -/

namespace Sys2Proof

/-- The accumulator's two 32-bit words (41 R160). -/
structure MichaelAcc where
  l : BitVec 32
  r : BitVec 32
deriving DecidableEq, Repr

/-- `XSWAP(v)`: swaps the octets within each 16-bit half (41 R161). -/
def xswap (v : BitVec 32) : BitVec 32 := ((v &&& 0xFF00FF00) >>> 8) ||| ((v &&& 0x00FF00FF) <<< 8)

/-- The block function `b(l, r)` (41 R161). -/
def michaelBlock (a : MichaelAcc) : MichaelAcc :=
  let r1 := a.r ^^^ rotl32 a.l 17
  let l1 := a.l + r1
  let r2 := r1 ^^^ xswap l1
  let l2 := l1 + r2
  let r3 := r2 ^^^ rotl32 l2 3
  let l3 := l2 + r3
  let r4 := r3 ^^^ rotr32 l3 2
  let l4 := l3 + r4
  ⟨l4, r4⟩

/-- Absorbing one 32-bit message word (41 R162). -/
def michaelAbsorb (a : MichaelAcc) (m : BitVec 32) : MichaelAcc := michaelBlock ⟨a.l ^^^ m, a.r⟩

/-- The padded message `M' = M || 5A || zeros(z)`, `z` the value in 4..7 that makes its length a multiple of 4
(41 R163). -/
def michaelPad (msg : Octets) : Octets := msg ++ 0x5A :: zeros (7 - msg.length % 4)

/-- The little-endian words of a string whose length is a multiple of 4 (41 R163). -/
def words32 : Octets → List (BitVec 32)
  | a :: b :: c :: d :: rest => le32 [a, b, c, d] 0 :: words32 rest
  | _ => []

/-- `Michael(K, M) → 8 octets` (41 R160, R164). -/
def michael (key msg : Octets) : Octets :=
  let a := (words32 (michaelPad msg)).foldl michaelAbsorb ⟨le32 key 0, le32 key 4⟩
  le32Bytes a.l ++ le32Bytes a.r

end Sys2Proof
end

