-- ==== Sys2Proof/Machine/Formats.lean ====
section
/-! DEFINITION. The octet formats the block builds and parses (30 R100 to R116). `F` is the frame being processed. -/

namespace Sys2Proof

/-- Octet 3 of a cipher header: `(KeyID << 6) | 0x20` taken in 8 bits (30 R100, R110). -/
def keyIdOctet (id : BitVec 2) : Octet := ((id.setWidth 8) <<< 6) ||| 0x20

/-- The CCMP header built from the incremented counter and the key index (30 R100). -/
def ccmpHeader (pn : BitVec 48) (id : BitVec 2) : Octets :=
  [pnOctet pn 0, pnOctet pn 1, 0, keyIdOctet id, pnOctet pn 2, pnOctet pn 3, pnOctet pn 4, pnOctet pn 5]

/-- The 8-octet cipher header of a received frame, `iv = F[hdrlen .. hdrlen+8)` (30 R101, R111). -/
def cipherHeader (F : Octets) : Octets := slice F (hdrlen F) (hdrlen F + 8)

/-- ExtIV is `iv[3] & 0x20` (30 R101, R111). -/
def extIv (iv : Octets) : Bool := oct iv 3 &&& 0x20 != 0

/-- The PN of a received CCMP header (30 R101). -/
def ccmpPn (iv : Octets) : BitVec 48 := mkPn (oct iv 7) (oct iv 6) (oct iv 5) (oct iv 4) (oct iv 1) (oct iv 0)

/-- Octet 0 of the CCM nonce: the TID, and bit 4 exactly for a management frame (30 R103). -/
def nonceFlags (F : Octets) : Octet := (getTid F).setWidth 8 ||| (if isMgmt F then 0x10 else 0)

/-- The CCM nonce, 13 octets (30 R103). -/
def ccmNonce (F : Octets) (pn : BitVec 48) : Octets :=
  nonceFlags F :: addr2 F ++
    [pnOctet pn 5, pnOctet pn 4, pnOctet pn 3, pnOctet pn 2, pnOctet pn 1, pnOctet pn 0]

/-- `FC0_DATA_AAD_MASK` (30 R105; D36; entry 12). -/
def fc0DataAadMask : Octet := 0x0F

/-- The AAD, built from the 802.11 header (30 R105). -/
def aad (F : Octets) : Octets :=
  [if isData F then oct F 0 &&& fc0DataAadMask else oct F 0,
   if hasHtc F then oct F 1 &&& 0xC7 &&& 0x7F else oct F 1 &&& 0xC7] ++
  slice F 4 22 ++
  [oct F 22 &&& 0x0F, 0] ++
  (if hasAddr4 F then addr4 F else []) ++
  (if hasQos F then [lo8 (getQos F) &&& 0x0F, 0] else [])

/-- The number of AAD octets: 22, 24, 28 or 30 (30 R105). -/
def aadLen (F : Octets) : Nat := 22 + (if hasAddr4 F then 6 else 0) + (if hasQos F then 2 else 0)

/-- The AAD area `AUTH[0..32)`: the length, the AAD, zeros (30 R104). -/
def ccmAuth (F : Octets) : Octets :=
  be16 (BitVec.ofNat 16 (aadLen F)) ++ aad F ++ zeros (30 - aadLen F)

/-- The TKIP header built from the incremented counter and the key index (30 R110). -/
def tkipHeader (tsc : BitVec 48) (id : BitVec 2) : Octets :=
  [pnOctet tsc 1, (pnOctet tsc 1 ||| 0x20) &&& 0x7F, pnOctet tsc 0, keyIdOctet id,
   pnOctet tsc 2, pnOctet tsc 3, pnOctet tsc 4, pnOctet tsc 5]

/-- The TSC of a received TKIP header (30 R111). -/
def tkipTsc (iv : Octets) : BitVec 48 := mkPn (oct iv 7) (oct iv 6) (oct iv 5) (oct iv 4) (oct iv 0) (oct iv 2)

/-- DA and SA by direction (30 R114). -/
def michaelAddrs (F : Octets) : Octets × Octets :=
  match direction F with
  | .nods => (addr1 F, addr2 F)
  | .tods => (addr3 F, addr2 F)
  | .fromds => (addr1 F, addr3 F)
  | .dstods => (addr3 F, addr4 F)

/-- The Michael pseudo-header, 16 octets: DA, SA, priority, three zeros (30 R114; C1). -/
def pseudo (F : Octets) : Octets :=
  (michaelAddrs F).1 ++ (michaelAddrs F).2 ++ [(getTid F).setWidth 8, 0, 0, 0]

/-- The Michael MIC of a frame's pseudo-header and a body under an 8-octet key (30 R115). -/
def frameMic (key F body : Octets) : Octets := michael key (pseudo F ++ body)

end Sys2Proof
end

