-- ==== Sys2Proof/Machine/Ccm.lean ====
section
/-! DEFINITION. The CCM computation (42 R182 to R187; 30 R106, R107). -/

namespace Sys2Proof

/-- The direction of one CCM computation (42 R182). -/
inductive CcmDir where
  | encrypt | decrypt
deriving DecidableEq, Repr

/-- `B_0` for a nonce and a body length (30 R106). -/
def ccmB0 (nonce : Octets) (lm : Nat) : Block := blockOf (0x59 :: nonce ++ be16 (BitVec.ofNat 16 lm))

/-- `A_ctr` (30 R107). -/
def ccmA (nonce : Octets) (ctr : Nat) : Block := blockOf (0x01 :: nonce ++ be16 (BitVec.ofNat 16 ctr))

/-- `S_ctr = AES(rk, A_ctr)` (42 R184). -/
def ccmS (rk : List Block) (nonce : Octets) (ctr : Nat) : Octets := (aes rk (ccmA nonce ctr)).octets

/-- One CBC-MAC step, `X = AES(rk, X xor B)` (42 R183, R186). -/
def cbcStep (rk : List Block) (x b : Block) : Block := aes rk (x.xor b)

/-- The CBC-MAC over the first `k` 16-octet blocks of an area (42 R183). -/
def cbcAuth (rk : List Block) : Nat → Octets → Block → Block
  | 0, _, x => x
  | k + 1, auth, x => cbcAuth rk k (auth.drop 16) (cbcStep rk x (blockOf (auth.take 16)))

/-- CBC-MAC start: `B_0`, then the blocks of the authenticated-data area (42 R183). -/
def ccmStart (rk : List Block) (nonce auth : Octets) (lm : Nat) : Block :=
  cbcAuth rk (auth.length / 16) auth (aes rk (ccmB0 nonce lm))

/-- The data pass over the `nb` blocks left of the data, from block number `i` on: the output octets and the final
`X` (42 R186). -/
def ccmPass (rk : List Block) (nonce : Octets) (dir : CcmDir) : Nat → Nat → Octets → Block → Octets × Block
  | 0, _, _, x => ([], x)
  | nb + 1, i, data, x =>
    let d := data.take 16
    let o := xorOctets d (ccmS rk nonce i)
    let p := match dir with
      | .encrypt => d
      | .decrypt => o
    let rest := ccmPass rk nonce dir nb (i + 1) (data.drop 16) (cbcStep rk x (blockOf p))
    (o ++ rest.1, rest.2)

/-- `CCM(rk, N, AUTH, D, dir)`: the pair of the output and the MIC `T = (X xor S_0)[0..8)` (42 R187). -/
def ccm (rk : List Block) (nonce auth data : Octets) (dir : CcmDir) : Octets × Octets :=
  let r := ccmPass rk nonce dir ((data.length + 15) / 16) 1 data (ccmStart rk nonce auth data.length)
  (r.1, (xorOctets r.2.octets (ccmS rk nonce 0)).take 8)

end Sys2Proof
end

