-- ==== Sys2Proof/Machine/Keymix.lean ====
section
/-! DEFINITION. The TKIP key-mix engine: the 16-bit S-box, Phase1 and Phase2 (43 R221 to R225; 30 R113). -/

namespace Sys2Proof

/-- A Phase1 output, the five 16-bit words `P1K[0..4]` (43 R223; 10 R49 `txttak`, `rxttak`). -/
structure Ttak where
  w0 : BitVec 16
  w1 : BitVec 16
  w2 : BitVec 16
  w3 : BitVec 16
  w4 : BitVec 16
deriving DecidableEq, Repr

/-- The all-zero words a TTAK cache holds after install (44 R241). -/
def Ttak.zero : Ttak := ⟨0, 0, 0, 0, 0⟩

/-- `TKIP_SBOX[a] = Mk16(mul2(SBOX[a]), mul3(SBOX[a]))` (43 R221). -/
def tkipSbox (a : Octet) : BitVec 16 := mk16 (mul2 (sbox a)) (mul3 (sbox a))

/-- `_S_(v) = TKIP_SBOX[Lo8(v)] xor swap16(TKIP_SBOX[Hi8(v)])` (43 R221). -/
def sub16 (v : BitVec 16) : BitVec 16 := tkipSbox (lo8 v) ^^^ swap16 (tkipSbox (hi8 v))

/-- Round `i` of Phase1; each line uses the value the line before it has written (43 R223). -/
def phase1Round (tk : Octets) (p : Ttak) (i : Nat) : Ttak :=
  let j := i % 2
  let p0 := p.w0 + sub16 (p.w4 ^^^ tk16 tk j)
  let p1 := p.w1 + sub16 (p0 ^^^ tk16 tk (j + 2))
  let p2 := p.w2 + sub16 (p1 ^^^ tk16 tk (j + 4))
  let p3 := p.w3 + sub16 (p2 ^^^ tk16 tk (j + 6))
  let p4 := p.w4 + sub16 (p3 ^^^ tk16 tk j)
  ⟨p0, p1, p2, p3, p4 + BitVec.ofNat 16 i⟩

/-- `Phase1(TK, TA, IV32) → P1K` (43 R223). -/
def phase1 (tk ta : Octets) (iv : BitVec 32) : Ttak :=
  [0, 1, 2, 3, 4, 5, 6, 7].foldl (phase1Round tk)
    ⟨lo16 iv, hi16 iv, mk16 (oct ta 1) (oct ta 0), mk16 (oct ta 3) (oct ta 2), mk16 (oct ta 5) (oct ta 4)⟩

/-- The six words `PPK[0..5]` Phase2 mixes (43 R225). -/
structure Ppk where
  w0 : BitVec 16
  w1 : BitVec 16
  w2 : BitVec 16
  w3 : BitVec 16
  w4 : BitVec 16
  w5 : BitVec 16
deriving DecidableEq, Repr

/-- The mixing steps of Phase2, each line using the values the lines before it wrote (43 R225). -/
def phase2Mix (tk : Octets) (p : Ttak) (iv : BitVec 16) : Ppk :=
  let q5 := p.w4 + iv
  let a0 := p.w0 + sub16 (q5 ^^^ tk16 tk 0)
  let a1 := p.w1 + sub16 (a0 ^^^ tk16 tk 1)
  let a2 := p.w2 + sub16 (a1 ^^^ tk16 tk 2)
  let a3 := p.w3 + sub16 (a2 ^^^ tk16 tk 3)
  let a4 := p.w4 + sub16 (a3 ^^^ tk16 tk 4)
  let a5 := q5 + sub16 (a4 ^^^ tk16 tk 5)
  let b0 := a0 + rotR1 (a5 ^^^ tk16 tk 6)
  let b1 := a1 + rotR1 (b0 ^^^ tk16 tk 7)
  let b2 := a2 + rotR1 b1
  let b3 := a3 + rotR1 b2
  let b4 := a4 + rotR1 b3
  let b5 := a5 + rotR1 b4
  ⟨b0, b1, b2, b3, b4, b5⟩

/-- The RC4 per-frame key laid out from `IV16` and the mixed words (30 R113). -/
def rc4Key (tk : Octets) (p : Ppk) (iv : BitVec 16) : Octets :=
  [hi8 iv, (hi8 iv ||| 0x20) &&& 0x7F, lo8 iv, lo8 ((p.w5 ^^^ tk16 tk 0) >>> 1),
   lo8 p.w0, hi8 p.w0, lo8 p.w1, hi8 p.w1, lo8 p.w2, hi8 p.w2,
   lo8 p.w3, hi8 p.w3, lo8 p.w4, hi8 p.w4, lo8 p.w5, hi8 p.w5]

/-- `Phase2(TK, P1K, IV16) → RC4KEY[0..16)` (43 R225). -/
def phase2 (tk : Octets) (p : Ttak) (iv : BitVec 16) : Octets := rc4Key tk (phase2Mix tk p iv) iv

end Sys2Proof
end

