-- ==== Sys2Proof/Config.lean ====
section
/-! DEFINITION. The open parameters of the block (00 R7), the constants the spec fixes (00 R6), and the values it leaves
free. -/

namespace Sys2Proof

/-- The open parameters of 00 R7 but `NKEYS`, which is the length of the key-slot file. They are data in the state, so
that every statement over all states holds for every value of them; no step changes them (entry 1). -/
structure Config where
  /-- capacity of `INBUF` in octets -/
  incap : Nat
  /-- capacity of `OUTBUF` in octets -/
  outcap : Nat
  /-- ticks of the `TICKS` input per second -/
  hz : Nat
  /-- capacity of the event queue -/
  evtcap : Nat
deriving DecidableEq, Repr

/-- The constraints 00 R7 puts on the open parameters; `nkeys` is the number of key slots. -/
def Config.ok (c : Config) (nkeys : Nat) : Bool :=
  (decide (1 ≤ nkeys) && decide (nkeys ≤ 256)) &&
  (decide (32 ≤ c.incap) && decide (c.incap ≤ 65535)) &&
  (decide (32 ≤ c.outcap) && decide (c.outcap ≤ 65535)) &&
  (decide (1 ≤ c.hz) && decide (4 ≤ c.evtcap))

/-- What the first host read finds in an octet of `OUTBUF` that holds no value (U2, U3): free, one per draw (entry 5). -/
opaque Config.freeOctet : Nat → Octet

/-- The RC4 engine state right after a TKIP install (10 R49 "unspecified", U14): the `k`-th octet of the `n`-th draw,
free (entry 6). -/
opaque Config.freeRc4Octet : Nat → Nat → Octet

end Sys2Proof
end

