-- ==== Sys2Proof/Machine/Platform.lean ====
section
/-! DEFINITION. The values `State.reset` gives the open parameters of 00 R7, which no source fixes (entry 1). -/

namespace Sys2Proof.Machine

/-- The buffer capacities, tick rate and queue capacity the programs of 95 section 3 assume (DESIGN CHOICE, entry 1). -/
def defaultConfig : Config := { incap := 2048, outcap := 2048, hz := 100, evtcap := 8 }

/-- `NKEYS` in `State.reset`: every value of the 8-bit `SLOT` field names a slot (DESIGN CHOICE, entry 1). -/
def defaultSlots : Nat := 256

end Sys2Proof.Machine
end

