-- ==== Sys2Proof/Machine/Rc4.lean ====
section
/-! DEFINITION. The RC4 stream cipher (41 R155 to R157). -/

namespace Sys2Proof

/-- RC4 engine state: `S[0..255]` and the octet indices `i`, `j` (41 R155; 10 R49). -/
structure Rc4 where
  S : Octets
  i : Octet
  j : Octet
deriving DecidableEq, Repr

/-- `S[a]`. -/
def rc4At (S : Octets) (a : Octet) : Octet := S.getD a.toNat 0

/-- `swap S[a], S[b]` (41 R156, R157). -/
def rc4Swap (S : Octets) (a b : Octet) : Octets :=
  (S.set a.toNat (rc4At S b)).set b.toNat (rc4At S a)

/-- The key-scheduling loop over `k`, `n` turns left (41 R156). -/
def rc4Schedule (key : Octets) : Nat → Nat → Octets → Octet → Octets
  | 0, _, S, _ => S
  | n + 1, k, S, j =>
    let a := BitVec.ofNat 8 k
    let j' := j + rc4At S a + oct key (k % key.length)
    rc4Schedule key n (k + 1) (rc4Swap S a j') j'

/-- `RC4_keysetup(key)` (41 R156). -/
def rc4Keysetup (key : Octets) : Rc4 :=
  { S := rc4Schedule key 256 0 ((List.range 256).map (BitVec.ofNat 8)) 0, i := 0, j := 0 }

/-- One turn of the generator: the next engine state and the keystream octet (41 R157). -/
def rc4Next (st : Rc4) : Rc4 × Octet :=
  let i := st.i + 1
  let j := st.j + rc4At st.S i
  let S := rc4Swap st.S i j
  ({ S := S, i := i, j := j }, rc4At S (rc4At S i + rc4At S j))

/-- `RC4_crypt(data)`: the output and the engine state after it; encryption and decryption are the same (41 R157). -/
def rc4Crypt : Rc4 → Octets → Octets × Rc4
  | st, [] => ([], st)
  | st, d :: ds =>
    let n := rc4Next st
    let r := rc4Crypt n.1 ds
    ((d ^^^ n.2) :: r.1, r.2)

/-- The engine state right after an install: every octet of it free (10 R49 "unspecified"; U14; entry 6). -/
def rc4Free (n : Nat) : Rc4 :=
  { S := (List.range 256).map (Config.freeRc4Octet n), i := Config.freeRc4Octet n 256, j := Config.freeRc4Octet n 257 }

end Sys2Proof
end

