-- ==== Sys2Proof/Machine/State.lean ====
section
/-! DEFINITION. The complete state of the block (10 R20) and its reset value (70 R360). -/

namespace Sys2Proof.Machine

/-- The status codes of 60 R320. -/
inductive Status where
  | ok | nomem | malformed | noExtIv | replay | authFailCcmp | icvFailTkip | micFailTkip | badKey | illegalCmd
  | pnExhausted
deriving DecidableEq, Repr

/-- The operating mode (10 R30): 0 station, 1 access point. -/
inductive OpMode where
  | sta | ap
deriving DecidableEq, Repr

/-- The cipher tag of a key slot (10 R41): 0 NONE, 1 CCMP, 2 TKIP. -/
inductive Cipher where
  | none | ccmp | tkip
deriving DecidableEq, Repr

/-- The two values of `txmic_off` and `rxmic_off` (10 R49). -/
inductive MicOff where
  | at16 | at24
deriving DecidableEq, Repr

/-- The TKIP private context (10 R49). -/
structure TkipCtx where
  /-- RC4 engine, scratch between commands -/
  rc4 : Rc4
  /-- offset in `key` of the Michael key used on transmit -/
  txmicOff : MicOff
  /-- offset in `key` of the Michael key used on receive -/
  rxmicOff : MicOff
  /-- cached Phase1 output, transmit direction -/
  txttak : Ttak
  /-- cached Phase1 output, receive direction -/
  rxttak : Ttak
  /-- `txttak` is valid -/
  txttakOk : Bool
  /-- `rxttak` is valid -/
  rxttakOk : Bool
deriving DecidableEq, Repr

/-- The private context of a slot (10 R41, R48, R49): absent, the eleven CCMP round keys, or the TKIP context. -/
inductive Ctx where
  | absent
  | ccmp (rk : List Block)
  | tkip (c : TkipCtx)
deriving DecidableEq, Repr

/-- A key slot `KEY[s]` (10 R40, R41). -/
structure KeySlot where
  /-- key material; octets 0..15 are TK -/
  key : Vector Octet 32
  /-- key index -/
  id : BitVec 2
  /-- role flag, 0 pairwise, 1 group -/
  group : Bool
  /-- transmit counter -/
  tsc : BitVec 48
  /-- per-TID receive counters -/
  rsc : Vector (BitVec 48) 16
  /-- receive counter for management frames -/
  mgmtRsc : BitVec 48
  /-- private context -/
  ctx : Ctx
deriving DecidableEq, Repr

/-- `KEY[s].cipher`, the tag of the context variant (10 R41; entry 11). -/
def KeySlot.cipher (k : KeySlot) : Cipher :=
  match k.ctx with
  | .absent => .none
  | .ccmp _ => .ccmp
  | .tkip _ => .tkip

/-- The empty slot: cipher NONE, every other field zero, no context (10 R51). -/
def KeySlot.empty : KeySlot :=
  { key := Vector.replicate 32 0, id := 0, group := false, tsc := 0, rsc := Vector.replicate 16 0, mgmtRsc := 0,
    ctx := .absent }

/-- The event codes of 30 R124. -/
inductive EvCode where
  | apDeauthTkipStas | eapolKeyReq | deauthBss | scan
deriving DecidableEq, Repr

/-- An event of `EVTQ`: a code and a TSC (20 R63; 30 R124). -/
structure Event where
  code : EvCode
  tsc : BitVec 48
deriving DecidableEq, Repr

/-- The control and status registers of 10 R24. -/
inductive Csr where
  | cmd | status | inlen | outlen | ifflags | opmode | micfailTick | micfailTsc | micfailSeen | slotsel | tidsel
  | ksInfo | ksTsc | ksRsc | ksMgmtRsc | evtCount | evtPop | ticks | allocFail
deriving DecidableEq, Repr

/-- One act of the world outside the block: a host access, a value the environment presents, or the reset event
(10 R21, R24, R35, R36; 20 R60, R61; 30 R94; 70 R360; entries 2, 3, 14). -/
inductive HostAccess where
  /-- write an operand register -/
  | oprWrite (i : Fin 16) (v : BitVec 32)
  /-- read an operand register -/
  | oprRead (i : Fin 16)
  /-- write a control and status register; a write of `cmd` runs a command -/
  | csrWrite (r : Csr) (v : BitVec 64)
  /-- read a control and status register -/
  | csrRead (r : Csr)
  /-- write octets of `INBUF` from address `a` on -/
  | inbufWrite (a : Nat) (bs : Octets)
  /-- read one octet of `INBUF` -/
  | inbufRead (a : Nat)
  /-- read one octet of `OUTBUF` -/
  | outbufRead (a : Nat)
  /-- the environment presents `TICKS = t` from here on -/
  | envTicks (t : BitVec 64)
  /-- the environment presents `ALLOC_FAIL = b` from here on -/
  | envAllocFail (b : Bool)
  /-- the reset event -/
  | resetEvent
deriving DecidableEq, Repr

/-- A frame buffer: its octets that hold a value, addresses strictly rising; an unlisted address holds no value
(20 R60, R61, R65). -/
abbrev Mem := List Host.Cell

/-- Why the machine stops. No command failure is among them: those are next states (60 R332). -/
inductive Fault where
  /-- A command whose `INLEN` covers an octet of `INBUF` that the host never wrote, or a host read of such an octet
  (20 R65, U1). Raised by the frame commands, TKIP_MIC and `inbufRead`. Safe: the spec gives no result. -/
  | inputUnwritten
  /-- A host access to `INBUF` at or above `INCAP`, an address that does not exist (20 R60). Raised by `inbufWrite` and
  `inbufRead`. Safe. -/
  | inbufRange
  /-- A host access to `OUTBUF` at or above `OUTCAP`, an address that does not exist (20 R61). Raised by `outbufRead`.
  Safe. -/
  | outbufRange
deriving DecidableEq, Repr

/-- Why an instruction is not run. No arm of `exec` refuses. -/
inductive Refusal where
  /-- The instruction has no meaning yet; raised by no arm. Safe. -/
  | notModelled (mnemonic : String)
deriving DecidableEq, Repr

/-- The complete state of the block (10 R20), its inputs (10 R35, R36), its open parameters (00 R7), and the model's own
fields `host`, `rdata`, `freeCount`. -/
structure State where
  /-- `OPR[0..15]` (10 R21) -/
  opr : Vector (BitVec 32) 16
  /-- `STATUS.CODE` (10 R26) -/
  code : Status
  /-- `STATUS.OUT_VALID` (10 R26) -/
  outValid : Bool
  /-- `INLEN` (10 R27) -/
  inlen : BitVec 16
  /-- `OUTLEN` (10 R28) -/
  outlen : BitVec 16
  /-- `IFFLAGS` (10 R29) -/
  ifflags : BitVec 32
  /-- `OPMODE` (10 R30) -/
  opmode : OpMode
  /-- `MICFAIL_TICK` (10 R31) -/
  micfailTick : BitVec 64
  /-- `MICFAIL_TSC` (10 R32) -/
  micfailTsc : BitVec 48
  /-- `MICFAIL_SEEN` (10 R37) -/
  micfailSeen : Bool
  /-- `SLOTSEL` (10 R33) -/
  slotsel : BitVec 8
  /-- `TIDSEL` (10 R33) -/
  tidsel : BitVec 4
  /-- `KEY[0..NKEYS-1]` (10 R40) -/
  keys : List KeySlot
  /-- `INBUF` (20 R60) -/
  inbuf : Mem
  /-- `OUTBUF` (20 R61) -/
  outbuf : Mem
  /-- `EVTQ`, oldest first (20 R63) -/
  evtq : List Event
  /-- the input `TICKS` (10 R35) -/
  ticks : BitVec 64
  /-- the input `ALLOC_FAIL` (10 R36) -/
  allocFail : Bool
  /-- open parameters (00 R7); fixed -/
  cfg : Config
  /-- MODEL: pending host accesses, oldest first (entry 2) -/
  host : List HostAccess
  /-- MODEL: what the last host read returned (entry 9) -/
  rdata : BitVec 64
  /-- MODEL: how many free values have been drawn (entry 5) -/
  freeCount : Nat
deriving DecidableEq, Repr

/-- `NKEYS`, the number of key slots (00 R7; 10 R40; entry 1). -/
def State.nkeys (s : State) : Nat := s.keys.length

/-- The block with the given open parameters right after reset (70 R360). -/
def State.resetWith (cfg : Config) (nkeys : Nat) : State :=
  { opr := Vector.replicate 16 0, code := .ok, outValid := false, inlen := 0, outlen := 0, ifflags := 0, opmode := .sta,
    micfailTick := 0, micfailTsc := 0, micfailSeen := false, slotsel := 0, tidsel := 0,
    keys := List.replicate nkeys KeySlot.empty, inbuf := [], outbuf := [], evtq := [],
    ticks := 0, allocFail := false, cfg := cfg, host := [], rdata := 0, freeCount := 0 }

/-- The machine right after reset (70 R360), with the open parameters of entry 1. -/
def State.reset : State := State.resetWith defaultConfig defaultSlots

/-- What a step or a meaning answers. -/
abbrev Result := Host.Outcome State Fault Refusal

end Sys2Proof.Machine
end

