-- ==== Sys2Proof/Machine/Memory.lean ====
section
/-! DEFINITION. The named operations over a frame buffer held as cells (20 R60, R61, R65, R69). -/

namespace Sys2Proof.Machine

/-- The octet at address `a`, `none` when it holds no value (20 R65). -/
def memRead : Mem → Nat → Option Octet
  | [], _ => none
  | (x, b) :: m, a => if x = a then some b else memRead m a

/-- Store one octet, keeping the addresses strictly rising. -/
def memWrite : Mem → Nat → Octet → Mem
  | [], a, v => [(a, v)]
  | (x, b) :: m, a, v =>
    if a < x then (a, v) :: (x, b) :: m
    else if a = x then (a, v) :: m
    else (x, b) :: memWrite m a v

/-- `MemWrite(space, a, n, v)` with `n = len(v)` (00 R11). -/
def memWriteAll (m : Mem) (a : Nat) : Octets → Mem
  | [] => m
  | v :: vs => memWriteAll (memWrite m a v) (a + 1) vs

/-- `MemRead(space, a, n)` (00 R11): `none` when one of the octets holds no value (20 R65). -/
def memReadAll (m : Mem) (a : Nat) : Nat → Option Octets
  | 0 => some []
  | n + 1 =>
    match memRead m a, memReadAll m (a + 1) n with
    | some b, some bs => some (b :: bs)
    | _, _ => none

/-- The buffer that holds the string `bs` from address `a` on and nothing else. -/
def memOf (a : Nat) : Octets → Mem
  | [] => []
  | b :: bs => (a, b) :: memOf (a + 1) bs

/-- Every address of the buffer is at least `lo`, and the addresses rise strictly. -/
def memRising (lo : Nat) : Mem → Bool
  | [] => true
  | (a, _) :: m => decide (lo ≤ a) && memRising (a + 1) m

/-- The canonical form: addresses strictly rising. An unlisted address holds no value, so no entry can equal it. -/
def Memory.wf (m : Mem) : Bool := memRising 0 m

/-- Every address of the buffer is below its capacity (20 R60, R61). -/
def memBelow (cap : Nat) (m : Mem) : Bool := m.all fun c => decide (c.1 < cap)

end Sys2Proof.Machine
end

