-- ==== Sys2Proof/Machine/Operands.lean ====
section
/-! DEFINITION. Every operand form of the commands (10 R21, R22; 20 R60; 30 R90). -/

namespace Sys2Proof.Machine

/-- The octet string laid over the `n` operand registers from `base` on, little-endian within each register
(10 R21). -/
def State.oprOctets (s : State) (base n : Nat) : Octets :=
  ((s.opr.toList.drop base).take n).flatMap le32Bytes

/-- `KEYIN`, the 32 octets of `OPR[0..7]` (10 R21). -/
def State.keyin (s : State) : Octets := s.oprOctets 0 8

/-- `MICKEY`, the 8 octets of `OPR[8..9]` (10 R21). -/
def State.mickey (s : State) : Octets := s.oprOctets 8 2

/-- `KEYCFG.KEYID`, `OPR[10][1:0]` (10 R21). -/
def State.cfgId (s : State) : BitVec 2 := s.opr[10].extractLsb' 0 2

/-- `KEYCFG.GROUP`, `OPR[10][2]` (10 R21). -/
def State.cfgGroup (s : State) : Bool := s.opr[10].getLsbD 2

/-- `OFFSET`, `OPR[11][15:0]` (10 R21). -/
def State.offset (s : State) : Nat := (s.opr[11].extractLsb' 0 16).toNat

/-- `TSC_IN = OPR[12] + 2^32 * OPR[13][15:0]` (10 R21; 46 R308). -/
def State.tscIn (s : State) : BitVec 48 :=
  (s.opr[13].extractLsb' 0 16 ++ s.opr[12] : BitVec (16 + 32))

/-- `MICOUT (OPR[14..15]) <- v` for an 8-octet string (10 R21; 44 R250). -/
def State.setMicout (s : State) (v : Octets) : State :=
  { s with opr := (s.opr.set 14 (le32 v 0)).set 15 (le32 v 4) }

/-- The frame a command works on, `F = INBUF[0..INLEN)`; `none` when one of its octets holds no value (20 R60,
R65). -/
def State.frame (s : State) : Option Octets := memReadAll s.inbuf 0 s.inlen.toNat

/-- A 32-octet string as the `key` field of a slot (10 R41). -/
def keyField (k : Octets) : Vector Octet 32 := Vector.ofFn fun i => oct k i

/-- `TK`, octets 0..15 of the key material (44, notation). -/
def KeySlot.tk (k : KeySlot) : Octets := slice k.key.toList 0 16

/-- The 8-octet Michael sub-key at one of the offsets 16 and 24 (10 R49; 44 R241). -/
def KeySlot.michaelKey (k : KeySlot) (o : MicOff) : Octets :=
  match o with
  | .at16 => slice k.key.toList 16 24
  | .at24 => slice k.key.toList 24 32

end Sys2Proof.Machine
end

