-- ==== Sys2Proof/Machine/Counters.lean ====
section
/-! DEFINITION. The PN/TSC counters of a slot (45 R280 to R285). -/

namespace Sys2Proof.Machine

/-- `2^48 - 1`, the counter's ceiling (45 R280, R282). -/
def counterMax : BitVec 48 := BitVec.allOnes 48

/-- Which receive counter a decrypt command checks and commits (45 R283). -/
inductive CounterSel where
  | tid (t : BitVec 4)
  | mgmt
deriving DecidableEq, Repr

/-- The counter CCMP_DECRYPT selects: `mgmt_rsc` for a management frame, else `rsc[get_tid(F)]` (45 R283; D31). -/
def ccmpSel (F : Octets) : CounterSel := if isMgmt F then .mgmt else .tid (getTid F)

/-- The counter TKIP_DECRYPT selects: always `rsc[get_tid(F)]` (45 R283; D30). -/
def tkipSel (F : Octets) : CounterSel := .tid (getTid F)

/-- `rsc[t]`. -/
def KeySlot.rscAt (k : KeySlot) (t : BitVec 4) : BitVec 48 := k.rsc[t.toNat]'t.isLt

/-- The value of a receive counter (45 R284). -/
def KeySlot.counter (k : KeySlot) : CounterSel → BitVec 48
  | .tid t => k.rscAt t
  | .mgmt => k.mgmtRsc

/-- The commit of a receive counter (45 R285). -/
def KeySlot.commit (k : KeySlot) (sel : CounterSel) (pn : BitVec 48) : KeySlot :=
  match sel with
  | .tid t => { k with rsc := k.rsc.set t.toNat pn t.isLt }
  | .mgmt => { k with mgmtRsc := pn }

end Sys2Proof.Machine
end

