-- ==== Sys2Proof/Machine/Flags.lean ====
section
/-! DEFINITION. The single-bit flags (10 R38) and the register words composed of flags and fields (10 R24, R26, R33; 30
R124). -/

namespace Sys2Proof.Machine

/-- The number of a status code (60 R320). -/
def Status.number : Status → BitVec 8
  | .ok => 0
  | .nomem => 1
  | .malformed => 2
  | .noExtIv => 3
  | .replay => 4
  | .authFailCcmp => 5
  | .icvFailTkip => 6
  | .micFailTkip => 7
  | .badKey => 8
  | .illegalCmd => 9
  | .pnExhausted => 10

/-- One flag as a 1-bit register. -/
def bit (b : Bool) : BitVec 1 := BitVec.ofBool b

/-- The `STATUS` register: `[7:0]` CODE, `[8]` OUT_VALID, `[31:9]` zero (10 R24, R26). -/
def State.statusWord (s : State) : BitVec 32 :=
  (0#23 ++ bit s.outValid ++ s.code.number : BitVec (23 + 1 + 8))

/-- `IFFLAGS[0]`, COUNTERMEASURES_ACTIVE (10 R29). -/
def State.countermeasuresActive (s : State) : Bool := s.ifflags.getLsbD 0

/-- `IFFLAGS[0] <- 1`; the other 31 bits are kept (10 R29; 46 R304). -/
def State.setCountermeasures (s : State) : State := { s with ifflags := s.ifflags ||| 1 }

/-- `OPMODE` as a bit: 0 station, 1 access point (10 R24). -/
def OpMode.bit : OpMode → BitVec 1
  | .sta => 0
  | .ap => 1

/-- The operating mode a written bit selects (10 R24). -/
def OpMode.ofBit (b : BitVec 1) : OpMode := if b = 1 then .ap else .sta

/-- The `CIPHER` field: 0 NONE, 1 CCMP, 2 TKIP (10 R33, R41). -/
def Cipher.number : Cipher → BitVec 2
  | .none => 0
  | .ccmp => 1
  | .tkip => 2

/-- `KEY[s].txttak_ok`; without a TKIP context 0 (10 R38; 70 R360). -/
def KeySlot.txttakOk (k : KeySlot) : Bool :=
  match k.ctx with
  | .absent => false
  | .ccmp _ => false
  | .tkip c => c.txttakOk

/-- `KEY[s].rxttak_ok`; without a TKIP context 0 (10 R38; 70 R360). -/
def KeySlot.rxttakOk (k : KeySlot) : Bool :=
  match k.ctx with
  | .absent => false
  | .ccmp _ => false
  | .tkip c => c.rxttakOk

/-- `KS_INFO` of a slot: `[1:0]` CIPHER, `[3:2]` KEYID, `[4]` GROUP, `[5]` TXTTAK_OK, `[6]` RXTTAK_OK, `[7]` zero
(10 R24, R33). -/
def KeySlot.info (k : KeySlot) : BitVec 8 :=
  (0#1 ++ bit k.rxttakOk ++ bit k.txttakOk ++ bit k.group ++ k.id ++ k.cipher.number : BitVec (1 + 1 + 1 + 1 + 2 + 2))

/-- The code of an event (30 R124). -/
def EvCode.number : EvCode → BitVec 4
  | .apDeauthTkipStas => 1
  | .eapolKeyReq => 2
  | .deauthBss => 3
  | .scan => 4

/-- An event record: bits 47:0 the TSC, bits 51:48 the code, bits 63:52 zero (30 R124). -/
def Event.word (e : Event) : BitVec 64 := (0#12 ++ e.code.number ++ e.tsc : BitVec (12 + 4 + 48))

end Sys2Proof.Machine
end

