-- ==== Sys2Proof/Machine/Ops.lean ====
section
/-! DEFINITION. The operations the commands share: the key-slot file, ending a command in success or failure, and the
reset event. -/

namespace Sys2Proof.Machine

/-- `KEY[n] <- k`; no other slot is touched (10 R50). -/
def State.setSlot (s : State) (n : Nat) (k : KeySlot) : State := { s with keys := s.keys.set n k }

/-- `STATUS.CODE <- c` (10 R26). -/
def State.setCode (s : State) (c : Status) : State := { s with code := c }

/-- The two kinds of commands 60 R322 tells apart. -/
inductive CmdKind where
  /-- CCMP_ENCRYPT, CCMP_DECRYPT, TKIP_ENCRYPT, TKIP_DECRYPT -/
  | frame
  /-- SET_KEY, DELETE_KEY, TKIP_MIC, an illegal command word -/
  | other
deriving DecidableEq, Repr

/-- `raise CODE`: the block's one exception (60 R322). A failing frame command writes CODE, clears OUT_VALID, OUTLEN and
INLEN, and leaves `OUTBUF` without a value (20 R61, U2); any other failing command writes CODE and nothing else. Nothing is
saved and there is no return: the block is idle again (60 R332). -/
def State.raise (s : State) (kind : CmdKind) (c : Status) : State :=
  match kind with
  | .frame => { s with code := c, outValid := false, outlen := 0, inlen := 0, outbuf := [] }
  | .other => { s with code := c }

/-- The answer of a command that fails. -/
def fail (kind : CmdKind) (c : Status) (s : State) : Result := .next (s.raise kind c)

/-- A frame command succeeds: the output frame into `OUTBUF[0..OUTLEN)`, OUT_VALID 1, CODE OK, the input consumed
(20 R61; 42 R188; 10 R26 to R28). Above `OUTLEN` the buffer holds no value (U3). -/
def State.deliver (s : State) (out : Octets) : State :=
  { s with outbuf := memOf 0 out, outlen := BitVec.ofNat 16 out.length, outValid := true, code := .ok, inlen := 0 }

/-- The pseudo-command ILLEGAL: `STATUS.CODE <- ILLEGAL_CMD` and nothing else (30 R92). -/
def State.illegal (s : State) : State := s.raise .other .illegalCmd

/-- Run `f` on the key slot a command names; a slot number `NKEYS` or above makes the command illegal (30 R92). -/
def withSlot (n : BitVec 8) (s : State) (f : KeySlot → Result) : Result :=
  match s.keys[n.toNat]? with
  | some k => f k
  | none => .next s.illegal

/-- Run `f` on the input frame; where an octet of it holds no value the spec gives no result (20 R65, U1; entry 4). -/
def withFrame (s : State) (f : Octets → Result) : Result :=
  match s.frame with
  | some F => f F
  | none => .fault .inputUnwritten

/-- The draw of NOMEM in a frame command: the input, or an output that does not fit (60 R326). -/
def State.noMem (s : State) (outlen : Nat) : Bool := s.allocFail || decide (s.cfg.outcap < outlen)

/-- The reset event (70 R360): every piece of state at its reset value; the inputs, the open parameters and the model's
own fields are no state of the block and stay (entry 14). -/
def State.applyReset (s : State) : State :=
  { State.resetWith s.cfg s.nkeys with
    ticks := s.ticks, allocFail := s.allocFail, host := s.host, rdata := s.rdata, freeCount := s.freeCount }

end Sys2Proof.Machine
end

