-- ==== Sys2Proof/Machine/Ccmp.lean ====
section
/-! DEFINITION. The CCMP commands (42 R180, R181, R188, R190). -/

namespace Sys2Proof.Machine

/-- The slot CCMP_SET_KEY installs (42 R180). -/
def State.ccmpInstall (s : State) : KeySlot :=
  { key := keyField (slice s.keyin 0 16 ++ zeros 16), id := s.cfgId, group := s.cfgGroup, tsc := 0,
    rsc := Vector.replicate 16 0, mgmtRsc := 0, ctx := .ccmp (aesExpand (slice s.keyin 0 16)) }

/-- CCMP_SET_KEY (42 R180). -/
def execCcmpSetKey (slot : BitVec 8) (s : State) : Result :=
  withSlot slot s fun _ =>
    if s.allocFail then fail .other .nomem s
    else .next ((s.setSlot slot.toNat s.ccmpInstall).setCode .ok)

/-- CCMP_DELETE_KEY (42 R181). -/
def execCcmpDeleteKey (slot : BitVec 8) (s : State) : Result :=
  withSlot slot s fun k =>
    if k.cipher = .tkip then fail .other .badKey s
    else .next ((s.setSlot slot.toNat KeySlot.empty).setCode .ok)

/-- The frame CCMP_ENCRYPT emits for the input `F` under the incremented counter `pn`: header, CCMP header, ciphertext,
MIC (42 R188; 30 R102). -/
def ccmpProtect (rk : List Block) (id : BitVec 2) (pn : BitVec 48) (F : Octets) : Octets :=
  let r := ccm rk (ccmNonce F pn) (ccmAuth F) (F.drop (hdrlen F)) .encrypt
  F.take (hdrlen F) ++ ccmpHeader pn id ++ r.1 ++ r.2

/-- The candidate plaintext and the computed MIC of CCMP_DECRYPT (42 R190). -/
def ccmpOpen (rk : List Block) (pn : BitVec 48) (F : Octets) : Octets × Octets :=
  ccm rk (ccmNonce F pn) (ccmAuth F) (slice F (hdrlen F + 8) (F.length - 8)) .decrypt

/-- CCMP_ENCRYPT on a slot that holds round keys (42 R188). -/
def ccmpEncryptFrame (slot : BitVec 8) (s : State) (k : KeySlot) (rk : List Block) (F : Octets) : Result :=
  if !headerOk F then fail .frame .malformed s
  else if s.noMem (F.length + 16) then fail .frame .nomem s
  else if k.tsc = counterMax then fail .frame .pnExhausted s
  else
    let pn := k.tsc + 1
    .next ((s.setSlot slot.toNat { k with tsc := pn }).deliver (ccmpProtect rk k.id pn F))

/-- CCMP_ENCRYPT (42 R188). -/
def execCcmpEncrypt (slot : BitVec 8) (s : State) : Result :=
  withSlot slot s fun k =>
    match k.ctx with
    | .absent => fail .frame .badKey s
    | .tkip _ => fail .frame .badKey s
    | .ccmp rk => withFrame s (ccmpEncryptFrame slot s k rk)

/-- CCMP_DECRYPT on a slot that holds round keys (42 R190). -/
def ccmpDecryptFrame (slot : BitVec 8) (s : State) (k : KeySlot) (rk : List Block) (F : Octets) : Result :=
  if !headerOk F then fail .frame .malformed s
  else if F.length < hdrlen F + 8 + 8 then fail .frame .malformed s
  else
    let iv := cipherHeader F
    if !extIv iv then fail .frame .noExtIv s
    else
      let pn := ccmpPn iv
      let sel := ccmpSel F
      if pn ≤ k.counter sel then fail .frame .replay s
      else if s.noMem (F.length - 16) then fail .frame .nomem s
      else
        let r := ccmpOpen rk pn F
        if r.2 ≠ slice F (F.length - 8) F.length then fail .frame .authFailCcmp s
        else
          .next ((s.setSlot slot.toNat (k.commit sel pn)).deliver (clearProtected (F.take (hdrlen F)) ++ r.1))

/-- CCMP_DECRYPT (42 R190). -/
def execCcmpDecrypt (slot : BitVec 8) (s : State) : Result :=
  withSlot slot s fun k =>
    match k.ctx with
    | .absent => fail .frame .badKey s
    | .tkip _ => fail .frame .badKey s
    | .ccmp rk => withFrame s (ccmpDecryptFrame slot s k rk)

end Sys2Proof.Machine
end

