-- ==== Sys2Proof/Machine/Countermeasures.lean ====
section
/-! DEFINITION. The MIC-failure handler (46 R300 to R306) and the command MIC_FAILURE (46 R308). -/

namespace Sys2Proof.Machine

/-- `emit(ev)`: append to `EVTQ`; on a full queue the new event is dropped (20 R63). -/
def State.emit (s : State) (e : Event) : State :=
  if s.evtq.length < s.cfg.evtcap then { s with evtq := s.evtq ++ [e] } else s

/-- `MICFAIL_SEEN <- 1; MICFAIL_TICK <- TICKS; MICFAIL_TSC <- tsc` (46 R303, R306). -/
def State.recordFailure (s : State) (tsc : BitVec 48) : State :=
  { s with micfailSeen := true, micfailTick := s.ticks, micfailTsc := tsc }

/-- Step 2's condition: no prior failure, or 60 seconds or more since it, in unbounded integers (46 R302). -/
def State.outsideWindow (s : State) : Bool :=
  !s.micfailSeen || decide (s.micfailTick.toNat + 60 * s.cfg.hz ≤ s.ticks.toNat)

/-- Step 3, access-point mode (46 R304). -/
def State.escalateAp (s : State) : State := s.setCountermeasures.emit ⟨.apDeauthTkipStas, 0⟩

/-- Step 3, station mode: the four events in order, the first with the TSC recorded before (46 R305). -/
def State.escalateSta (s : State) (tsc : BitVec 48) : State :=
  (((s.emit ⟨.eapolKeyReq, s.micfailTsc⟩).emit ⟨.eapolKeyReq, tsc⟩).emit ⟨.deauthBss, 0⟩).emit ⟨.scan, 0⟩

/-- Step 3 by operating mode (46 R304, R305). -/
def State.escalate (s : State) (tsc : BitVec 48) : State :=
  match s.opmode with
  | .ap => s.escalateAp
  | .sta => s.escalateSta tsc

/-- The MIC-failure handler (46 R300). `MICFAIL_SEEN` is already 1 where step 4 (R306) is reached. -/
def State.handler (s : State) (tsc : BitVec 48) : State :=
  if s.countermeasuresActive then s
  else if s.outsideWindow then s.recordFailure tsc
  else (s.escalate tsc).recordFailure tsc

/-- MIC_FAILURE (46 R308). -/
def execMicFailure (s : State) : Result := .next ((s.handler s.tscIn).setCode .ok)

end Sys2Proof.Machine
end

