-- ==== Sys2Proof/Machine/Tkip.lean ====
section
/-! DEFINITION. The TKIP commands (44 R241, R242, R243, R247, R250) and the TTAK caches (43 R228 to R230). -/

namespace Sys2Proof.Machine

/-- The offset of the transmit Michael key an operating mode selects at install: 16 for an access point, 24 for a
station (44 R241). -/
def txMicOff : OpMode → MicOff
  | .ap => .at16
  | .sta => .at24

/-- The offset of the receive Michael key, the other one (44 R241). -/
def rxMicOff : OpMode → MicOff
  | .ap => .at24
  | .sta => .at16

/-- The slot TKIP_SET_KEY installs; the RC4 engine's content is unspecified (44 R241; 10 R49; entry 6). -/
def State.tkipInstall (s : State) : KeySlot :=
  { key := keyField s.keyin, id := s.cfgId, group := s.cfgGroup, tsc := 0, rsc := Vector.replicate 16 0, mgmtRsc := 0,
    ctx := .tkip { rc4 := rc4Free s.freeCount, txmicOff := txMicOff s.opmode, rxmicOff := rxMicOff s.opmode,
                   txttak := Ttak.zero, rxttak := Ttak.zero, txttakOk := false, rxttakOk := false } }

/-- One free value has been drawn (entry 5). -/
def State.drawFree (s : State) : State := { s with freeCount := s.freeCount + 1 }

/-- TKIP_SET_KEY (44 R241). -/
def execTkipSetKey (slot : BitVec 8) (s : State) : Result :=
  withSlot slot s fun _ =>
    if s.allocFail then fail .other .nomem s
    else .next ((s.drawFree.setSlot slot.toNat s.tkipInstall).setCode .ok)

/-- TKIP_DELETE_KEY (44 R242). -/
def execTkipDeleteKey (slot : BitVec 8) (s : State) : Result :=
  withSlot slot s fun k =>
    if k.cipher = .ccmp then fail .other .badKey s
    else .next ((s.setSlot slot.toNat KeySlot.empty).setCode .ok)

/-- The transmit cache for the incremented counter: recomputed when invalid or when `tsc & 0xFFFF = 0` (43 R229). -/
def txMix (tk : Octets) (c : TkipCtx) (F : Octets) (tsc : BitVec 48) : TkipCtx :=
  if !c.txttakOk || iv16 tsc == 0 then { c with txttak := phase1 tk (addr2 F) (iv32 tsc), txttakOk := true } else c

/-- The receive cache for the received counter: recomputed, and its flag cleared, when invalid or when the upper 32 bits
differ from those of the selected receive counter (43 R230). -/
def rxMix (tk : Octets) (c : TkipCtx) (F : Octets) (tsc prsc : BitVec 48) : TkipCtx :=
  if !c.rxttakOk || iv32 tsc != iv32 prsc then { c with rxttakOk := false, rxttak := phase1 tk (addr2 F) (iv32 tsc) }
  else c

/-- The cleartext TKIP_ENCRYPT feeds to RC4: body, Michael MIC, ICV (44 R243; 30 R116). -/
def tkipPlain (txmic F : Octets) : Octets :=
  let body := F.drop (hdrlen F)
  let mic := frameMic txmic F body
  body ++ mic ++ icv (body ++ mic)

/-- The encrypted part of the output and the RC4 engine after it (44 R243). -/
def tkipSeal (tk : Octets) (p1k : Ttak) (tsc : BitVec 48) (plain : Octets) : Octets × Rc4 :=
  rc4Crypt (rc4Keysetup (phase2 tk p1k (iv16 tsc))) plain

/-- TKIP_ENCRYPT on a slot that holds a TKIP context (44 R243). -/
def tkipEncryptFrame (slot : BitVec 8) (s : State) (k : KeySlot) (c : TkipCtx) (F : Octets) : Result :=
  if !headerOk F then fail .frame .malformed s
  else if s.noMem (F.length + 20) then fail .frame .nomem s
  else if k.tsc = counterMax then fail .frame .pnExhausted s
  else
    let tsc := k.tsc + 1
    let c' := txMix k.tk c F tsc
    let e := tkipSeal k.tk c'.txttak tsc (tkipPlain (k.michaelKey c.txmicOff) F)
    .next ((s.setSlot slot.toNat { k with tsc := tsc, ctx := .tkip { c' with rc4 := e.2 } }).deliver
      (F.take (hdrlen F) ++ tkipHeader tsc k.id ++ e.1))

/-- TKIP_ENCRYPT (44 R243). -/
def execTkipEncrypt (slot : BitVec 8) (s : State) : Result :=
  withSlot slot s fun k =>
    match k.ctx with
    | .absent => fail .frame .badKey s
    | .ccmp _ => fail .frame .badKey s
    | .tkip c => withFrame s (tkipEncryptFrame slot s k c)

/-- The three parts of a decrypted TKIP body: body, Michael MIC, ICV (44 R247). -/
structure TkipParts where
  body : Octets
  rmic : Octets
  ricv : Octets
deriving DecidableEq, Repr

/-- Cut a decrypted string into body, 8-octet MIC and 4-octet ICV (44 R247). -/
def tkipCut (d : Octets) : TkipParts :=
  { body := slice d 0 (d.length - 12), rmic := slice d (d.length - 12) (d.length - 4),
    ricv := slice d (d.length - 4) d.length }

/-- TKIP_DECRYPT after the receive key mix, `c` being the context it left: ICV, Michael MIC, commit (44 R247). -/
def tkipVerify (slot : BitVec 8) (s : State) (k : KeySlot) (c : TkipCtx) (F : Octets) (tsc : BitVec 48) : Result :=
  let e := rc4Crypt (rc4Keysetup (phase2 k.tk c.rxttak (iv16 tsc))) (F.drop (hdrlen F + 8))
  let c' := { c with rc4 := e.2 }
  let p := tkipCut e.1
  let s' := s.setSlot slot.toNat { k with ctx := .tkip c' }
  if icv (p.body ++ p.rmic) ≠ p.ricv then fail .frame .icvFailTkip s'
  else if frameMic (k.michaelKey c.rxmicOff) F p.body ≠ p.rmic then fail .frame .micFailTkip (s'.handler tsc)
  else
    let k' := ({ k with ctx := .tkip { c' with rxttakOk := true } } : KeySlot).commit (tkipSel F) tsc
    .next ((s.setSlot slot.toNat k').deliver (clearProtected (F.take (hdrlen F)) ++ p.body))

/-- TKIP_DECRYPT on a slot that holds a TKIP context (44 R247). -/
def tkipDecryptFrame (slot : BitVec 8) (s : State) (k : KeySlot) (c : TkipCtx) (F : Octets) : Result :=
  if !headerOk F then fail .frame .malformed s
  else if F.length < hdrlen F + 8 + 8 + 4 then fail .frame .malformed s
  else
    let iv := cipherHeader F
    if !extIv iv then fail .frame .noExtIv s
    else
      let tsc := tkipTsc iv
      let prsc := k.counter (tkipSel F)
      if tsc ≤ prsc then fail .frame .replay s
      else if s.noMem (F.length - 20) then fail .frame .nomem s
      else tkipVerify slot s k (rxMix k.tk c F tsc prsc) F tsc

/-- TKIP_DECRYPT (44 R247). -/
def execTkipDecrypt (slot : BitVec 8) (s : State) : Result :=
  withSlot slot s fun k =>
    match k.ctx with
    | .absent => fail .frame .badKey s
    | .ccmp _ => fail .frame .badKey s
    | .tkip c => withFrame s (tkipDecryptFrame slot s k c)

/-- TKIP_MIC (44 R250). -/
def execTkipMic (s : State) : Result :=
  withFrame s fun F =>
    if !headerOk F then fail .other .malformed s
    else if F.length < s.offset then fail .other .malformed s
    else .next ((s.setMicout (frameMic s.mickey F (F.drop s.offset))).setCode .ok)

end Sys2Proof.Machine
end

