-- ==== Sys2Proof/Machine/Dispatch.lean ====
section
/-! DEFINITION. The meaning of every command: one direct call an arm. -/

namespace Sys2Proof.Machine

/-- The effect of a command (30 R91, column "semantics"). -/
def exec (i : Instr) (s : State) : Host.Outcome State Fault Refusal :=
  match i with
  | .ccmpSetKey slot => Sys2Proof.Machine.execCcmpSetKey slot s
  | .ccmpDeleteKey slot => Sys2Proof.Machine.execCcmpDeleteKey slot s
  | .ccmpEncrypt slot => Sys2Proof.Machine.execCcmpEncrypt slot s
  | .ccmpDecrypt slot => Sys2Proof.Machine.execCcmpDecrypt slot s
  | .tkipSetKey slot => Sys2Proof.Machine.execTkipSetKey slot s
  | .tkipDeleteKey slot => Sys2Proof.Machine.execTkipDeleteKey slot s
  | .tkipEncrypt slot => Sys2Proof.Machine.execTkipEncrypt slot s
  | .tkipDecrypt slot => Sys2Proof.Machine.execTkipDecrypt slot s
  | .tkipMic => Sys2Proof.Machine.execTkipMic s
  | .micFailure => Sys2Proof.Machine.execMicFailure s

end Sys2Proof.Machine
end

