-- ==== Sys2Proof/Machine/HostPort.lean ====
section
/-! DEFINITION. The host's side of the block: register and buffer accesses (10 R21, R24, R33, R34; D35), and the command a
write of `CSR.CMD` starts (10 R25; 30 R92). -/

namespace Sys2Proof.Machine

/-- The number the host addresses a register by (10 R24). -/
def Csr.number : Csr → Nat
  | .cmd => 0x00
  | .status => 0x01
  | .inlen => 0x02
  | .outlen => 0x03
  | .ifflags => 0x04
  | .opmode => 0x05
  | .micfailTick => 0x06
  | .micfailTsc => 0x07
  | .micfailSeen => 0x08
  | .slotsel => 0x09
  | .tidsel => 0x0A
  | .ksInfo => 0x0B
  | .ksTsc => 0x0C
  | .ksRsc => 0x0D
  | .ksMgmtRsc => 0x0E
  | .evtCount => 0x0F
  | .evtPop => 0x10
  | .ticks => 0x11
  | .allocFail => 0x12

/-- What the `KS_*` window shows: a value of slot `SLOTSEL`, 0 when there is no such slot or it is empty (10 R33,
R51). -/
def State.ksView (s : State) (f : KeySlot → BitVec 64) : BitVec 64 :=
  match s.keys[s.slotsel.toNat]? with
  | some k => if k.cipher = .none then 0 else f k
  | none => 0

/-- What a host read of a register returns, zeros above its width (10 R24, R33, R34; D35). `CMD` reads 0; an
input register reads as what the environment presents now (entry 8). -/
def State.csrValue (s : State) : Csr → BitVec 64
  | .cmd => 0
  | .status => s.statusWord.setWidth 64
  | .inlen => s.inlen.setWidth 64
  | .outlen => s.outlen.setWidth 64
  | .ifflags => s.ifflags.setWidth 64
  | .opmode => s.opmode.bit.setWidth 64
  | .micfailTick => s.micfailTick
  | .micfailTsc => s.micfailTsc.setWidth 64
  | .micfailSeen => (bit s.micfailSeen).setWidth 64
  | .slotsel => s.slotsel.setWidth 64
  | .tidsel => s.tidsel.setWidth 64
  | .ksInfo => s.ksView fun k => k.info.setWidth 64
  | .ksTsc => s.ksView fun k => k.tsc.setWidth 64
  | .ksRsc => s.ksView fun k => (k.rsc[s.tidsel.toNat]'s.tidsel.isLt).setWidth 64
  | .ksMgmtRsc => s.ksView fun k => k.mgmtRsc.setWidth 64
  | .evtCount => (BitVec.ofNat 16 s.evtq.length).setWidth 64
  | .evtPop => match s.evtq with
    | [] => 0
    | e :: _ => e.word
  | .ticks => s.ticks
  | .allocFail => (bit s.allocFail).setWidth 64

/-- A host read returned `v` (entry 9). -/
def State.setRdata (s : State) (v : BitVec 64) : State := { s with rdata := v }

/-- The oldest event leaves `EVTQ` (10 R34). -/
def State.popEvent (s : State) : State := { s with evtq := s.evtq.tail }

/-- A host read of a register; `EVT_POP` also removes the event it returns and is the only register whose read has an
effect, every other read is idempotent (10 R24, R34; 20 R69). -/
def State.csrRead (s : State) (r : Csr) : State :=
  if r = .evtPop then (s.setRdata (s.csrValue r)).popEvent else s.setRdata (s.csrValue r)

/-- `INLEN <- n`: the low 16 bits of the written value, and `INCAP` where that is more (10 R27; D6, D35). -/
def State.writeInlen (s : State) (v : BitVec 64) : State :=
  { s with inlen := if s.cfg.incap < (v.setWidth 16).toNat then BitVec.ofNat 16 s.cfg.incap else v.setWidth 16 }

/-- A host write of a register other than `CMD`: a register narrower than the access takes the low bits; a read-only
register and an input ignore the write (10 R24; D35). -/
def State.csrWrite (s : State) (r : Csr) (v : BitVec 64) : State :=
  match r with
  | .inlen => s.writeInlen v
  | .ifflags => { s with ifflags := v.setWidth 32 }
  | .opmode => { s with opmode := OpMode.ofBit (v.setWidth 1) }
  | .slotsel => { s with slotsel := v.setWidth 8 }
  | .tidsel => { s with tidsel := v.setWidth 4 }
  | _ => s

/-- A host write of an operand register; `OPR[14..15]` ignore it (10 R21; D35). -/
def State.oprWrite (s : State) (i : Fin 16) (v : BitVec 32) : State :=
  if i.val < 14 then { s with opr := s.opr.set i.val v } else s

/-- A host read of an operand register (10 R21). -/
def State.oprRead (s : State) (i : Fin 16) : State := s.setRdata (s.opr[i].setWidth 64)

/-- A host write of octets of `INBUF` (20 R60); at or above `INCAP` there is no octet (entry 7). -/
def inbufWrite (a : Nat) (bs : Octets) (s : State) : Result :=
  if s.cfg.incap < a + bs.length then .fault .inbufRange
  else .next { s with inbuf := memWriteAll s.inbuf a bs }

/-- A host read of one octet of `INBUF` (20 R60, R65; entries 4, 7). -/
def inbufRead (a : Nat) (s : State) : Result :=
  if s.cfg.incap ≤ a then .fault .inbufRange
  else
    match memRead s.inbuf a with
    | some b => .next (s.setRdata (b.setWidth 64))
    | none => .fault .inputUnwritten

/-- The octet of `OUTBUF` at `a`, which held no value, holds a free value from here on (U2, U3; entry 5). -/
def State.drawOutput (s : State) (a : Nat) : State :=
  { s with outbuf := memWrite s.outbuf a (Config.freeOctet s.freeCount), freeCount := s.freeCount + 1 }

/-- A host read of one octet of `OUTBUF` (20 R61); one that holds no value reads as a free value, and as the same value
when it is read again (U2, U3; 20 R69; entry 5). -/
def outbufRead (a : Nat) (s : State) : Result :=
  if s.cfg.outcap ≤ a then .fault .outbufRange
  else
    match memRead s.outbuf a with
    | some b => .next (s.setRdata (b.setWidth 64))
    | none => .next ((s.drawOutput a).setRdata ((Config.freeOctet s.freeCount).setWidth 64))

/-- A host write of `CSR.CMD`: the command the word decodes to, or ILLEGAL (10 R25; 30 R92). -/
def runWord (w : BitVec 32) (s : State) : Result :=
  match decodeFor s.nkeys w with
  | .ok i => exec i s
  | .error _ => .next s.illegal

/-- One act of the world outside (entry 2). -/
def hostAccess (a : HostAccess) (s : State) : Result :=
  match a with
  | .csrWrite .cmd v => runWord (v.setWidth 32) s
  | .csrWrite r v => .next (s.csrWrite r v)
  | .csrRead r => .next (s.csrRead r)
  | .oprWrite i v => .next (s.oprWrite i v)
  | .oprRead i => .next (s.oprRead i)
  | .inbufWrite a bs => inbufWrite a bs s
  | .inbufRead a => inbufRead a s
  | .outbufRead a => outbufRead a s
  | .envTicks t => .next { s with ticks := t }
  | .envAllocFail b => .next { s with allocFail := b }
  | .resetEvent => .next s.applyReset

/-- The oldest pending access is performed; with none pending the block is idle (10 R23; entry 2). -/
def hostStep (s : State) : Result :=
  match s.host with
  | [] => .next s
  | a :: rest => hostAccess a { s with host := rest }

/-- `s` with a host write of `CSR.CMD` as its next access: the instruction whose low `nbits` bits are those of `w`. -/
def pushCommand (s : State) (nbits w : Nat) : State :=
  { s with host := .csrWrite .cmd (BitVec.ofNat 64 (w % 2 ^ nbits)) :: s.host }

end Sys2Proof.Machine
end

