-- ==== Sys2Proof/Machine/Step.lean ====
section
/-! DEFINITION. One step of the machine, and the placing of a command where the next step runs it. -/

namespace Sys2Proof.Machine

/-- One step: the oldest pending host access, between commands (10 R23, R25; 20 R72; entry 2). -/
def step (s : State) : Host.Outcome State Fault Refusal := hostStep s

/-- `s` with the command word stored where `step` takes its next command from: at the head of the pending host
accesses (entry 2). -/
def State.withFetchWord (s : State) (nbits w : Nat) : State := pushCommand s nbits w

end Sys2Proof.Machine
end

