-- ==== Sys2Proof/Safety.lean ====
section
/-! DEFINITION. What a good state of the block is, in the terms the statements use. Each part is decidable, so that a
witness can be checked. -/

namespace Sys2Proof.Machine

/-- The buffers keep their canonical form and hold values below their capacities only (20 R60, R61). -/
abbrev State.BuffersOk (s : State) : Prop :=
  Memory.wf s.inbuf = true ∧ memBelow s.cfg.incap s.inbuf = true ∧
  Memory.wf s.outbuf = true ∧ memBelow s.cfg.outcap s.outbuf = true

/-- The lengths fit the buffers; with OUT_VALID 1 every octet of `OUTBUF[0..OUTLEN)` holds a value, with OUT_VALID 0
`OUTLEN` is 0 (10 R26 to R28; 20 R61). -/
abbrev State.LengthsOk (s : State) : Prop :=
  s.inlen.toNat ≤ s.cfg.incap ∧ s.outlen.toNat ≤ s.cfg.outcap ∧
  (s.outValid = true → (memReadAll s.outbuf 0 s.outlen.toNat).isSome = true) ∧
  (s.outValid = false → s.outlen = 0)

/-- A slot is coherent: empty when it has no context (10 R51); a CCMP context is the key schedule of the stored TK and the
rest of the key is zero (10 R41, R48); a TKIP context has the two Michael offsets apart and a full RC4 table, and the
management counter is unused (10 R49; 45 R283). -/
abbrev KeySlot.Coherent (k : KeySlot) : Prop :=
  match k.ctx with
  | .absent => k = KeySlot.empty
  | .ccmp rk => rk = aesExpand k.tk ∧ slice k.key.toList 16 32 = zeros 16
  | .tkip c => c.txmicOff ≠ c.rxmicOff ∧ c.rc4.S.length = 256 ∧ k.mgmtRsc = 0

/-- Every slot is coherent. -/
abbrev State.SlotsOk (s : State) : Prop := ∀ k ∈ s.keys, k.Coherent

/-- The event queue does not exceed its capacity (20 R63), and no failure time or TSC is held before a failure was
recorded (10 R31, R32, R37). -/
abbrev State.TrackerOk (s : State) : Prop :=
  s.evtq.length ≤ s.cfg.evtcap ∧ (s.micfailSeen = false → s.micfailTick = 0 ∧ s.micfailTsc = 0)

/-- The open parameters are within the bounds of 00 R7. -/
abbrev State.ParamsOk (s : State) : Prop := s.cfg.ok s.nkeys = true

/-- All of it: what holds after reset and after every step. -/
abbrev State.Inv (s : State) : Prop :=
  s.ParamsOk ∧ s.BuffersOk ∧ s.LengthsOk ∧ s.SlotsOk ∧ s.TrackerOk

end Sys2Proof.Machine
end

