-- ==== Sys2Proof/Certificates/Slice0/Obligations.lean ====
section
/-! DEFINITION. The statements for the provers. Each docstring names the rules of the spec it formalises. -/

open Sys2Proof Sys2Proof.Machine

namespace Sys2Proof.Claims

/-! Words the statements share. -/

/-- The four frame commands (10 R26). -/
def isFrame : Instr → Bool
  | .ccmpEncrypt _ => true
  | .ccmpDecrypt _ => true
  | .tkipEncrypt _ => true
  | .tkipDecrypt _ => true
  | _ => false

/-- The state 60 R322 gives a frame command that fails without the exceptions of that rule; `OUTBUF` holds no value. -/
def frameFailure (s : State) (c : Status) : State :=
  { s with code := c, outValid := false, outlen := 0, inlen := 0, outbuf := [] }

/-- A frame command that succeeds with the output frame `out` and the slot file `keys` (20 R61; 42 R188). -/
def frameSuccess (s : State) (keys : List KeySlot) (out : Octets) : State :=
  { s with keys := keys, outbuf := memOf 0 out, outlen := BitVec.ofNat 16 out.length, outValid := true, code := .ok,
           inlen := 0 }

/-- `ALLOC_FAIL = 1` or the output does not fit (60 R326). -/
abbrev noRoom (s : State) (n : Nat) : Prop := s.allocFail = true ∨ s.cfg.outcap < n

/-- The codes a command can end with (60 R321). -/
def codesOf : Instr → List Status
  | .ccmpSetKey _ => [.ok, .nomem]
  | .ccmpDeleteKey _ => [.ok, .badKey]
  | .ccmpEncrypt _ => [.ok, .nomem, .malformed, .badKey, .pnExhausted]
  | .ccmpDecrypt _ => [.ok, .nomem, .malformed, .noExtIv, .replay, .authFailCcmp, .badKey]
  | .tkipSetKey _ => [.ok, .nomem]
  | .tkipDeleteKey _ => [.ok, .badKey]
  | .tkipEncrypt _ => [.ok, .nomem, .malformed, .badKey, .pnExhausted]
  | .tkipDecrypt _ => [.ok, .nomem, .malformed, .noExtIv, .replay, .icvFailTkip, .micFailTkip, .badKey]
  | .tkipMic => [.ok, .malformed]
  | .micFailure => [.ok]

/-- A word is illegal on a block with `nkeys` slots, in the words of 30 R92. -/
abbrev illegalWord (nkeys : Nat) (w : BitVec 32) : Prop :=
  let op := w.extractLsb' 0 8
  let slot := w.extractLsb' 8 8
  w.extractLsb' 16 16 ≠ 0 ∨
  op ∉ ([0x01, 0x02, 0x03, 0x04, 0x11, 0x12, 0x13, 0x14, 0x15, 0x16] : List (BitVec 8)) ∨
  (op ∈ ([0x15, 0x16] : List (BitVec 8)) ∧ slot ≠ 0) ∨
  (op ∈ ([0x01, 0x02, 0x03, 0x04, 0x11, 0x12, 0x13, 0x14] : List (BitVec 8)) ∧ nkeys ≤ slot.toNat)

/-- The three counters of a slot are the same. -/
abbrev sameCounters (k k' : KeySlot) : Prop := k'.tsc = k.tsc ∧ k'.rsc = k.rsc ∧ k'.mgmtRsc = k.mgmtRsc

/-- The transmit TTAK cache after the key mix of a frame: recomputed where 43 R229 says so. -/
def txCache (k : KeySlot) (c : TkipCtx) (F : Octets) (tsc : BitVec 48) : Ttak :=
  if c.txttakOk = false ∨ tsc.extractLsb' 0 16 = 0 then
    phase1 (slice k.key.toList 0 16) (slice F 10 16) (tsc.extractLsb' 16 32)
  else c.txttak

/-- The receive key mix recomputes Phase1 (43 R230). -/
abbrev rxStale (c : TkipCtx) (tsc prsc : BitVec 48) : Prop :=
  c.rxttakOk = false ∨ tsc.extractLsb' 16 32 ≠ prsc.extractLsb' 16 32

/-- The receive context after the key mix (43 R230). -/
abbrev rxMixed (k : KeySlot) (c c' : TkipCtx) (F : Octets) (tsc prsc : BitVec 48) : Prop :=
  (rxStale c tsc prsc →
    c' = { c with rxttakOk := false,
                  rxttak := phase1 (slice k.key.toList 0 16) (slice F 10 16) (tsc.extractLsb' 16 32) }) ∧
  (¬ rxStale c tsc prsc → c' = c)

/-- The RC4 per-frame key of a context's TTAK words and a TSC (43 R225). -/
def frameKey (k : KeySlot) (p1k : Ttak) (tsc : BitVec 48) : Octets :=
  phase2 (slice k.key.toList 0 16) p1k (tsc.extractLsb' 0 16)

/-- The PN of a received CCMP frame, from the octets of its CCMP header (30 R101). -/
def rxPn (F : Octets) : BitVec 48 :=
  let i := hdrlen F
  (oct F (i + 7) ++ oct F (i + 6) ++ oct F (i + 5) ++ oct F (i + 4) ++ oct F (i + 1) ++ oct F i :
    BitVec (8 + 8 + 8 + 8 + 8 + 8))

/-- The TSC of a received TKIP frame, from the octets of its TKIP header (30 R111). -/
def rxTsc (F : Octets) : BitVec 48 :=
  let i := hdrlen F
  (oct F (i + 7) ++ oct F (i + 6) ++ oct F (i + 5) ++ oct F (i + 4) ++ oct F i ++ oct F (i + 2) :
    BitVec (8 + 8 + 8 + 8 + 8 + 8))

/-- The ExtIV bit of a received frame is set (30 R101, R111). -/
abbrev rxExtIv (F : Octets) : Prop := oct F (hdrlen F + 3) &&& 0x20 ≠ 0

/-- The receive counter CCMP checks a frame against (45 R283). -/
def ccmpPrsc (k : KeySlot) (F : Octets) : BitVec 48 :=
  if isMgmt F then k.mgmtRsc else k.rsc[(getTid F).toNat]'(getTid F).isLt

/-- The receive counter TKIP checks a frame against (45 R283). -/
def tkipPrsc (k : KeySlot) (F : Octets) : BitVec 48 := k.rsc[(getTid F).toNat]'(getTid F).isLt

/-- A slot with the receive counter CCMP selects for a frame set to `pn` (45 R283, R285). -/
def ccmpCommitted (k : KeySlot) (F : Octets) (pn : BitVec 48) : KeySlot :=
  if isMgmt F then { k with mgmtRsc := pn } else { k with rsc := k.rsc.set (getTid F).toNat pn (getTid F).isLt }

/-- A frame passes the checks a decrypt command makes before any cipher work, `ov` being the cipher's overhead
(42 R190; 44 R247). -/
abbrev admissible (s : State) (F : Octets) (ov : Nat) (pn prsc : BitVec 48) : Prop :=
  headerOk F = true ∧ hdrlen F + ov ≤ F.length ∧ rxExtIv F ∧ prsc < pn ∧ ¬ noRoom s (F.length - ov)

end Sys2Proof.Claims

open Sys2Proof.Claims

/-! ### The command word and the step -/

/-- 30 R90 to R92: decoding the word of a legal command gives the command back, for every command and every slot number
the block has. -/
def Obligations.EveryCommandDecodesFromItsWord : Prop :=
  ∀ (nkeys : Nat) (i : Instr), i.wellFormed nkeys = true → decodeFor nkeys (encode i) = .ok i

/-- 30 R92: a legal word is the word of the one command it selects, and that command names an existing slot. -/
def Obligations.EveryLegalWordEncodesItsCommand : Prop :=
  ∀ (nkeys : Nat) (w : BitVec 32) (i : Instr), decodeFor nkeys w = .ok i → encode i = w ∧ i.wellFormed nkeys = true

/-- 30 R92, both halves: which words are illegal, and that writing one sets `STATUS.CODE` to ILLEGAL_CMD and changes
nothing else; every other word selects exactly one command. -/
def Obligations.IllegalWordsAreTheseAndOnlySetTheCode : Prop :=
  (∀ (nkeys : Nat) (w : BitVec 32), illegalWord nkeys w ↔ ∃ e, decodeFor nkeys w = .error e) ∧
  (∀ (nkeys : Nat) (w : BitVec 32), ¬ illegalWord nkeys w → ∃! i, decodeFor nkeys w = .ok i) ∧
  (∀ (s : State) (v : BitVec 64) (rest : List HostAccess), s.host = .csrWrite .cmd v :: rest →
    illegalWord s.nkeys (v.setWidth 32) → step s = .next { s with host := rest, code := .illegalCmd })

/-- 30 R91: words written out from the table of operation codes, on a block with four slots. -/
def Obligations.WrittenWordsDecode : Prop :=
  decodeFor 4 0x00000001 = .ok (.ccmpSetKey 0) ∧ decodeFor 4 0x00000302 = .ok (.ccmpDeleteKey 3) ∧
  decodeFor 4 0x00000303 = .ok (.ccmpEncrypt 3) ∧ decodeFor 4 0x00000104 = .ok (.ccmpDecrypt 1) ∧
  decodeFor 4 0x00000211 = .ok (.tkipSetKey 2) ∧ decodeFor 4 0x00000112 = .ok (.tkipDeleteKey 1) ∧
  decodeFor 4 0x00000313 = .ok (.tkipEncrypt 3) ∧ decodeFor 4 0x00000014 = .ok (.tkipDecrypt 0) ∧
  decodeFor 4 0x00000015 = .ok .tkipMic ∧ decodeFor 4 0x00000016 = .ok .micFailure ∧
  decodeFor 4 0x00000403 = .error .slotOutOfRange ∧ decodeFor 4 0x00000115 = .error .slotNotZero ∧
  decodeFor 4 0x00010003 = .error .reservedBits ∧ decodeFor 4 0x00000017 = .error .unassignedOp

/-- 10 R23, R25: a step whose next host access is a write of `CSR.CMD` with a legal word runs exactly that command, on the
state without the access; with no access pending the block is idle; and a command placed for the fetch is the one the
next step runs. The queue of host accesses is the model's (entry 2). -/
def Obligations.StepRunsTheDecodedCommand : Prop :=
  (∀ (s : State) (v : BitVec 64) (rest : List HostAccess) (i : Instr), s.host = .csrWrite .cmd v :: rest →
    decodeFor s.nkeys (v.setWidth 32) = .ok i → step s = exec i { s with host := rest }) ∧
  (∀ s : State, s.host = [] → step s = .next s) ∧
  (∀ (s : State) (i : Instr), i.wellFormed s.nkeys = true → step (s.withFetchWord 32 (encode i).toNat) = exec i s)

/-! ### Key commands -/

/-- 42 R180: CCMP_SET_KEY, operation code 0x01, installs the key whatever the slot held, or fails with NOMEM and changes only
the code. -/
def Obligations.CcmpSetKeyInstalls : Prop :=
  ∀ (slot : BitVec 8) (s : State), slot.toNat < s.nkeys →
    encode (.ccmpSetKey slot) = ((0 : BitVec 16) ++ slot ++ (0x01 : BitVec 8) : BitVec (16 + 8 + 8)) ∧
    (s.allocFail = true → exec (.ccmpSetKey slot) s = .next { s with code := .nomem }) ∧
    (s.allocFail = false → ∃ k : KeySlot,
      exec (.ccmpSetKey slot) s = .next { s with keys := s.keys.set slot.toNat k, code := .ok } ∧
      k.key.toList = slice s.keyin 0 16 ++ zeros 16 ∧ k.id = s.opr[10].extractLsb' 0 2 ∧
      k.group = s.opr[10].getLsbD 2 ∧ k.tsc = 0 ∧ (∀ t : Fin 16, k.rsc[t] = 0) ∧ k.mgmtRsc = 0 ∧
      k.ctx = .ccmp (aesExpand (slice s.keyin 0 16)))

/-- 44 R241: TKIP_SET_KEY installs the key, latches the Michael keys from `OPMODE` and clears the caches, or fails with
NOMEM and changes only the code. The RC4 engine's content is open and nothing is said of it (entry 6). -/
def Obligations.TkipSetKeyInstalls : Prop :=
  ∀ (slot : BitVec 8) (s : State), slot.toNat < s.nkeys →
    (s.allocFail = true → exec (.tkipSetKey slot) s = .next { s with code := .nomem }) ∧
    (s.allocFail = false → ∃ (k : KeySlot) (c : TkipCtx),
      exec (.tkipSetKey slot) s =
        .next { s with keys := s.keys.set slot.toNat k, code := .ok, freeCount := s.freeCount + 1 } ∧
      k.key.toList = s.keyin ∧ k.id = s.opr[10].extractLsb' 0 2 ∧ k.group = s.opr[10].getLsbD 2 ∧
      k.tsc = 0 ∧ (∀ t : Fin 16, k.rsc[t] = 0) ∧ k.mgmtRsc = 0 ∧ k.ctx = .tkip c ∧
      (s.opmode = .ap → c.txmicOff = .at16 ∧ c.rxmicOff = .at24 ∧
        k.michaelKey c.txmicOff = slice s.keyin 16 24 ∧ k.michaelKey c.rxmicOff = slice s.keyin 24 32) ∧
      (s.opmode = .sta → c.txmicOff = .at24 ∧ c.rxmicOff = .at16 ∧
        k.michaelKey c.txmicOff = slice s.keyin 24 32 ∧ k.michaelKey c.rxmicOff = slice s.keyin 16 24) ∧
      c.txttak = ⟨0, 0, 0, 0, 0⟩ ∧ c.rxttak = ⟨0, 0, 0, 0, 0⟩ ∧ c.txttakOk = false ∧ c.rxttakOk = false)

/-- 42 R181: CCMP_DELETE_KEY, operation code 0x02, empties the slot, changes nothing but the code on an empty one, and
fails BAD_KEY on a TKIP slot. -/
def Obligations.CcmpDeleteKeyEmptiesTheSlot : Prop :=
  ∀ (slot : BitVec 8) (s : State) (k : KeySlot), s.keys[slot.toNat]? = some k →
    encode (.ccmpDeleteKey slot) = ((0 : BitVec 16) ++ slot ++ (0x02 : BitVec 8) : BitVec (16 + 8 + 8)) ∧
    (k.cipher = .tkip → exec (.ccmpDeleteKey slot) s = .next { s with code := .badKey }) ∧
    (k.cipher ≠ .tkip → exec (.ccmpDeleteKey slot) s =
      .next { s with keys := s.keys.set slot.toNat KeySlot.empty, code := .ok }) ∧
    (k = KeySlot.empty → exec (.ccmpDeleteKey slot) s = .next { s with code := .ok })

/-- 44 R242: TKIP_DELETE_KEY, operation code 0x12, empties the slot, changes nothing but the code on an empty one, and
fails BAD_KEY on a CCMP slot. -/
def Obligations.TkipDeleteKeyEmptiesTheSlot : Prop :=
  ∀ (slot : BitVec 8) (s : State) (k : KeySlot), s.keys[slot.toNat]? = some k →
    encode (.tkipDeleteKey slot) = ((0 : BitVec 16) ++ slot ++ (0x12 : BitVec 8) : BitVec (16 + 8 + 8)) ∧
    (k.cipher = .ccmp → exec (.tkipDeleteKey slot) s = .next { s with code := .badKey }) ∧
    (k.cipher ≠ .ccmp → exec (.tkipDeleteKey slot) s =
      .next { s with keys := s.keys.set slot.toNat KeySlot.empty, code := .ok }) ∧
    (k = KeySlot.empty → exec (.tkipDeleteKey slot) s = .next { s with code := .ok })

/-! ### Frame commands: what they do when they succeed -/

/-- 42 R188, 30 R100, R102: CCMP_ENCRYPT emits header, CCMP header with the incremented PN, ciphertext and MIC. -/
def Obligations.CcmpEncryptProtectsTheFrame : Prop :=
  ∀ (slot : BitVec 8) (s : State) (k : KeySlot) (rk : List Block) (F : Octets) (pn : BitVec 48),
    s.keys[slot.toNat]? = some k → k.ctx = .ccmp rk → s.frame = some F → headerOk F = true →
    ¬ noRoom s (F.length + 16) → k.tsc ≠ BitVec.allOnes 48 → pn = k.tsc + 1 →
    exec (.ccmpEncrypt slot) s = .next
      (frameSuccess s (s.keys.set slot.toNat { k with tsc := pn })
        (F.take (hdrlen F) ++
          [pn.extractLsb' 0 8, pn.extractLsb' 8 8, 0, (k.id.setWidth 8 <<< 6) ||| 0x20, pn.extractLsb' 16 8,
            pn.extractLsb' 24 8, pn.extractLsb' 32 8, pn.extractLsb' 40 8] ++
          (ccm rk (ccmNonce F pn) (ccmAuth F) (F.drop (hdrlen F)) .encrypt).1 ++
          (ccm rk (ccmNonce F pn) (ccmAuth F) (F.drop (hdrlen F)) .encrypt).2))

/-- 42 R190: CCMP_DECRYPT of an admissible frame whose MIC matches strips the CCMP header and the MIC, clears PROTECTED,
and commits exactly the selected counter. -/
def Obligations.CcmpDecryptRecoversTheFrame : Prop :=
  ∀ (slot : BitVec 8) (s : State) (k : KeySlot) (rk : List Block) (F P T : Octets),
    s.keys[slot.toNat]? = some k → k.ctx = .ccmp rk → s.frame = some F →
    admissible s F 16 (rxPn F) (ccmpPrsc k F) →
    (P, T) = ccm rk (ccmNonce F (rxPn F)) (ccmAuth F) (slice F (hdrlen F + 8) (F.length - 8)) .decrypt →
    (T = slice F (F.length - 8) F.length → exec (.ccmpDecrypt slot) s = .next
      (frameSuccess s (s.keys.set slot.toNat (ccmpCommitted k F (rxPn F)))
        ((F.take (hdrlen F)).set 1 (oct F 1 &&& 0xBF) ++ P))) ∧
    (T ≠ slice F (F.length - 8) F.length →
      exec (.ccmpDecrypt slot) s = .next (frameFailure s .authFailCcmp))

/-- 44 R243, 43 R229, 30 R110, R112: TKIP_ENCRYPT emits header, TKIP header with the incremented TSC, and body, Michael MIC
and ICV under one RC4 stream; of the slot it writes the counter, the transmit cache and the RC4 engine. That the engine field
then holds the state 41 R157 computes, where U14 allows any value, is the model's reading (entry 6). -/
def Obligations.TkipEncryptProtectsTheFrame : Prop :=
  ∀ (slot : BitVec 8) (s : State) (k : KeySlot) (c : TkipCtx) (F body mic E : Octets) (st : Rc4) (tsc : BitVec 48),
    s.keys[slot.toNat]? = some k → k.ctx = .tkip c → s.frame = some F → headerOk F = true →
    ¬ noRoom s (F.length + 20) → k.tsc ≠ BitVec.allOnes 48 → tsc = k.tsc + 1 → body = F.drop (hdrlen F) →
    mic = michael (k.michaelKey c.txmicOff) (pseudo F ++ body) →
    (E, st) = rc4Crypt (rc4Keysetup (frameKey k (txCache k c F tsc) tsc)) (body ++ mic ++ icv (body ++ mic)) →
    exec (.tkipEncrypt slot) s = .next
      (frameSuccess s
        (s.keys.set slot.toNat
          { k with tsc := tsc,
                   ctx := .tkip { c with rc4 := st, txttak := txCache k c F tsc, txttakOk := true } })
        (F.take (hdrlen F) ++
          [tsc.extractLsb' 8 8, (tsc.extractLsb' 8 8 ||| 0x20) &&& 0x7F, tsc.extractLsb' 0 8,
            (k.id.setWidth 8 <<< 6) ||| 0x20, tsc.extractLsb' 16 8, tsc.extractLsb' 24 8, tsc.extractLsb' 32 8,
            tsc.extractLsb' 40 8] ++ E))

/-- 44 R247, 43 R230: TKIP_DECRYPT of an admissible frame: with ICV and Michael MIC right it recovers the frame, commits the
counter and marks the receive cache valid; with a wrong ICV it fails quietly; with a right ICV and a wrong MIC it runs the
handler with the received TSC. Both failures keep what the key mix did to the cache (60 R322). That
the engine field then holds the state 41 R157 computes is the model's reading (entry 6). -/
def Obligations.TkipDecryptRecoversTheFrame : Prop :=
  ∀ (slot : BitVec 8) (s : State) (k : KeySlot) (c c' : TkipCtx) (F D body rmic ricv : Octets) (st : Rc4),
    s.keys[slot.toNat]? = some k → k.ctx = .tkip c → s.frame = some F →
    admissible s F 20 (rxTsc F) (tkipPrsc k F) → rxMixed k c c' F (rxTsc F) (tkipPrsc k F) →
    (D, st) = rc4Crypt (rc4Keysetup (frameKey k c'.rxttak (rxTsc F))) (F.drop (hdrlen F + 8)) →
    D = body ++ rmic ++ ricv → rmic.length = 8 → ricv.length = 4 →
    (icv (body ++ rmic) = ricv → michael (k.michaelKey c.rxmicOff) (pseudo F ++ body) = rmic →
      exec (.tkipDecrypt slot) s = .next
        (frameSuccess s
          (s.keys.set slot.toNat
            { k with rsc := k.rsc.set (getTid F).toNat (rxTsc F) (getTid F).isLt,
                     ctx := .tkip { c' with rc4 := st, rxttakOk := true } })
          ((F.take (hdrlen F)).set 1 (oct F 1 &&& 0xBF) ++ body))) ∧
    (icv (body ++ rmic) ≠ ricv → exec (.tkipDecrypt slot) s = .next
      (frameFailure { s with keys := s.keys.set slot.toNat { k with ctx := .tkip { c' with rc4 := st } } }
        .icvFailTkip)) ∧
    (icv (body ++ rmic) = ricv → michael (k.michaelKey c.rxmicOff) (pseudo F ++ body) ≠ rmic →
      exec (.tkipDecrypt slot) s = .next
        (frameFailure
          (({ s with keys := s.keys.set slot.toNat { k with ctx := .tkip { c' with rc4 := st } } } : State).handler
            (rxTsc F)) .micFailTkip))

/-- 44 R250: TKIP_MIC, word 0x00000015, writes the Michael MIC of the pseudo-header and the octets from `OFFSET` on into
`OPR[14..15]` and changes nothing else but the code; a bad header or an offset above `INLEN` fails MALFORMED and changes only the code. -/
def Obligations.TkipMicComputesTheMic : Prop :=
  ∀ (s : State) (F : Octets), s.frame = some F → encode .tkipMic = 0x00000015 ∧
    (headerOk F = false → exec .tkipMic s = .next { s with code := .malformed }) ∧
    (headerOk F = true → F.length < (s.opr[11].extractLsb' 0 16).toNat →
      exec .tkipMic s = .next { s with code := .malformed }) ∧
    (headerOk F = true → (s.opr[11].extractLsb' 0 16).toNat ≤ F.length → ∃ o : Vector (BitVec 32) 16,
      exec .tkipMic s = .next { s with opr := o, code := .ok } ∧
      (∀ j : Fin 16, j.val < 14 → o[j] = s.opr[j]) ∧
      le32Bytes o[14] ++ le32Bytes o[15] =
        michael (le32Bytes s.opr[8] ++ le32Bytes s.opr[9])
          (pseudo F ++ F.drop (s.opr[11].extractLsb' 0 16).toNat))

/-- 46 R308 with R300 to R306: MIC_FAILURE, word 0x00000016, always ends OK; it is suppressed while the flag is set, records
outside the 60-second window, and inside it escalates by operating mode, the queue dropping what does not fit (20 R63). -/
def Obligations.MicFailureDrivesTheTracker : Prop :=
  ∀ (s : State) (tsc : BitVec 48), tsc = (s.opr[13].extractLsb' 0 16 ++ s.opr[12] : BitVec (16 + 32)) →
    encode .micFailure = 0x00000016 ∧
    (s.ifflags.getLsbD 0 = true → exec .micFailure s = .next { s with code := .ok }) ∧
    (s.ifflags.getLsbD 0 = false → (s.micfailSeen = false ∨ s.micfailTick.toNat + 60 * s.cfg.hz ≤ s.ticks.toNat) →
      exec .micFailure s =
        .next { s with code := .ok, micfailSeen := true, micfailTick := s.ticks, micfailTsc := tsc }) ∧
    (s.ifflags.getLsbD 0 = false → s.micfailSeen = true → s.ticks.toNat < s.micfailTick.toNat + 60 * s.cfg.hz →
      s.opmode = .ap →
      exec .micFailure s =
        .next { s with code := .ok, micfailSeen := true, micfailTick := s.ticks, micfailTsc := tsc,
                       ifflags := s.ifflags ||| 1,
                       evtq := s.evtq ++ ([⟨.apDeauthTkipStas, 0⟩] : List Event).take (s.cfg.evtcap - s.evtq.length) }) ∧
    (s.ifflags.getLsbD 0 = false → s.micfailSeen = true → s.ticks.toNat < s.micfailTick.toNat + 60 * s.cfg.hz →
      s.opmode = .sta →
      exec .micFailure s =
        .next { s with code := .ok, micfailSeen := true, micfailTick := s.ticks, micfailTsc := tsc,
                       evtq := s.evtq ++
                         ([⟨.eapolKeyReq, s.micfailTsc⟩, ⟨.eapolKeyReq, tsc⟩, ⟨.deauthBss, 0⟩, ⟨.scan, 0⟩] :
                           List Event).take (s.cfg.evtcap - s.evtq.length) })

/-! ### Frame commands: when they fail -/

/-- 60 R331, rows of the encrypt commands: BAD_KEY, MALFORMED, NOMEM, PN_EXHAUSTED, the first that holds, with the
effects of R322. -/
def Obligations.EncryptFailsInOrder : Prop :=
  ∀ (slot : BitVec 8) (s : State) (k : KeySlot) (i : Instr) (ci : Cipher) (ov : Nat),
    (i, ci, ov) ∈ [(Instr.ccmpEncrypt slot, Cipher.ccmp, 16), (Instr.tkipEncrypt slot, Cipher.tkip, 20)] →
    s.keys[slot.toNat]? = some k →
    (k.cipher ≠ ci → exec i s = .next (frameFailure s .badKey)) ∧
    (∀ F : Octets, s.frame = some F → k.cipher = ci →
      (headerOk F = false → exec i s = .next (frameFailure s .malformed)) ∧
      (headerOk F = true → noRoom s (F.length + ov) → exec i s = .next (frameFailure s .nomem)) ∧
      (headerOk F = true → ¬ noRoom s (F.length + ov) → k.tsc = BitVec.allOnes 48 →
        exec i s = .next (frameFailure s .pnExhausted)))

/-- 60 R331, rows of the decrypt commands up to NOMEM: BAD_KEY, MALFORMED (header), MALFORMED (length), NO_EXT_IV, REPLAY,
NOMEM, the first that holds; none of them touches the slot (R322). -/
def Obligations.DecryptFailsInOrder : Prop :=
  ∀ (slot : BitVec 8) (s : State) (k : KeySlot) (i : Instr) (ci : Cipher) (ov : Nat)
    (pnOf : Octets → BitVec 48) (prscOf : KeySlot → Octets → BitVec 48),
    ((i, ci, ov) = (Instr.ccmpDecrypt slot, Cipher.ccmp, 16) ∧ pnOf = rxPn ∧ prscOf = ccmpPrsc ∨
     (i, ci, ov) = (Instr.tkipDecrypt slot, Cipher.tkip, 20) ∧ pnOf = rxTsc ∧ prscOf = tkipPrsc) →
    s.keys[slot.toNat]? = some k →
    (k.cipher ≠ ci → exec i s = .next (frameFailure s .badKey)) ∧
    (∀ F : Octets, s.frame = some F → k.cipher = ci →
      (headerOk F = false → exec i s = .next (frameFailure s .malformed)) ∧
      (headerOk F = true → F.length < hdrlen F + ov → exec i s = .next (frameFailure s .malformed)) ∧
      (headerOk F = true → hdrlen F + ov ≤ F.length → ¬ rxExtIv F → exec i s = .next (frameFailure s .noExtIv)) ∧
      (headerOk F = true → hdrlen F + ov ≤ F.length → rxExtIv F → pnOf F ≤ prscOf k F →
        exec i s = .next (frameFailure s .replay)) ∧
      (headerOk F = true → hdrlen F + ov ≤ F.length → rxExtIv F → prscOf k F < pnOf F →
        noRoom s (F.length - ov) → exec i s = .next (frameFailure s .nomem)))

/-- 20 R65: a command that works on a frame whose octets are not all written has no result, and the machine stops; the frame
is whole exactly when every octet below `INLEN` was written. A frame command stops only after its key check. -/
def Obligations.UnwrittenInputHasNoResult : Prop :=
  ∀ s : State,
    (s.frame = none ↔ ∃ a, a < s.inlen.toNat ∧ memRead s.inbuf a = none) ∧
    (s.frame = none → exec .tkipMic s = .fault .inputUnwritten) ∧
    (∀ (slot : BitVec 8) (k : KeySlot), s.keys[slot.toNat]? = some k → s.frame = none →
      (k.cipher = .ccmp → exec (.ccmpEncrypt slot) s = .fault .inputUnwritten ∧
        exec (.ccmpDecrypt slot) s = .fault .inputUnwritten) ∧
      (k.cipher = .tkip → exec (.tkipEncrypt slot) s = .fault .inputUnwritten ∧
        exec (.tkipDecrypt slot) s = .fault .inputUnwritten))

/-- 60 R322: what a failing command changes. A frame command: the code, OUT_VALID, OUTLEN, INLEN and the content of
`OUTBUF`, and nothing of the key slot, but for the two exceptions of TKIP_DECRYPT; any other command: the code alone. -/
def Obligations.FailureChangesOnlyWhatTheRuleLists : Prop :=
  ∀ (i : Instr) (s t : State), i.wellFormed s.nkeys = true → exec i s = .next t → t.code ≠ .ok →
    (isFrame i = false → t = { s with code := t.code }) ∧
    (isFrame i = true → t.code ≠ .icvFailTkip → t.code ≠ .micFailTkip → t = frameFailure s t.code) ∧
    (isFrame i = true → (t.code = .icvFailTkip ∨ t.code = .micFailTkip) →
      ∃ (slot : BitVec 8) (k : KeySlot) (c c' : TkipCtx),
        i = .tkipDecrypt slot ∧ s.keys[slot.toNat]? = some k ∧ k.ctx = .tkip c ∧
        c' = { c with rxttak := c'.rxttak, rxttakOk := c'.rxttakOk, rc4 := c'.rc4 } ∧
        t.keys = s.keys.set slot.toNat { k with ctx := .tkip c' } ∧
        (t.code = .icvFailTkip → t = frameFailure { s with keys := t.keys } .icvFailTkip) ∧
        (t.code = .micFailTkip → t = frameFailure
          { s with keys := t.keys, micfailSeen := t.micfailSeen, micfailTick := t.micfailTick,
                   micfailTsc := t.micfailTsc, ifflags := t.ifflags, evtq := t.evtq } .micFailTkip))

/-- 60 R321: which command can end with which code. -/
def Obligations.CommandsEndWithTheCodesOfTheTable : Prop :=
  ∀ (i : Instr) (s t : State), i.wellFormed s.nkeys = true → exec i s = .next t → t.code ∈ codesOf i

/-! ### What no command does -/

/-- 10 R22: no command writes `OPR[0..13]`; `OPR[14..15]` change only on a TKIP_MIC that ends OK. -/
def Obligations.CommandsKeepTheOperandRegisters : Prop :=
  ∀ (i : Instr) (s t : State), exec i s = .next t →
    (∀ j : Fin 16, j.val < 14 → t.opr[j] = s.opr[j]) ∧ (i ≠ .tkipMic ∨ t.code ≠ .ok → t.opr = s.opr)

/-- 10 R30, R33, R36; 70 R363: no command writes `OPMODE`, `SLOTSEL`, `TIDSEL`, an octet of `INBUF`, an input or an open
parameter, or performs a host access; and none changes the number of slots. -/
def Obligations.CommandsKeepTheHostSide : Prop :=
  ∀ (i : Instr) (s t : State), exec i s = .next t →
    t.opmode = s.opmode ∧ t.slotsel = s.slotsel ∧ t.tidsel = s.tidsel ∧
    (∀ a, memRead t.inbuf a = memRead s.inbuf a) ∧ t.ticks = s.ticks ∧ t.allocFail = s.allocFail ∧
    t.cfg = s.cfg ∧ t.nkeys = s.nkeys ∧ t.host = s.host ∧ t.rdata = s.rdata

/-- 10 R26 to R28: every frame command ends with the input consumed, and OUT_VALID tells success from failure; no other
command touches `INLEN`, `OUTLEN`, OUT_VALID or an octet of `OUTBUF`. -/
def Obligations.OnlyFrameCommandsTouchTheFrames : Prop :=
  ∀ (i : Instr) (s t : State), i.wellFormed s.nkeys = true → exec i s = .next t →
    (isFrame i = true → t.inlen = 0 ∧ (t.outValid = true ↔ t.code = .ok) ∧ (t.code ≠ .ok → t.outlen = 0)) ∧
    (isFrame i = false → t.inlen = s.inlen ∧ t.outlen = s.outlen ∧ t.outValid = s.outValid ∧
      ∀ a, memRead t.outbuf a = memRead s.outbuf a)

/-- 46 R300, R307; 60 R331: but for MIC_FAILURE and a TKIP_DECRYPT that ends MIC_FAIL_TKIP no command touches the
countermeasures state or emits an event. -/
def Obligations.OnlyMicFailuresReachTheTracker : Prop :=
  ∀ (i : Instr) (s t : State), exec i s = .next t → i ≠ .micFailure → t.code ≠ .micFailTkip →
    t.ifflags = s.ifflags ∧ t.micfailTick = s.micfailTick ∧ t.micfailTsc = s.micfailTsc ∧
    t.micfailSeen = s.micfailSeen ∧ t.evtq = s.evtq

/-- 10 R29; 46 R304, R305: a command leaves `IFFLAGS` alone or, in access-point mode, sets bit 0; bits 31:1 never change and
the block never clears the flag. -/
def Obligations.CommandsNeverClearTheFlag : Prop :=
  ∀ (i : Instr) (s t : State), exec i s = .next t →
    (t.ifflags = s.ifflags ∨ (s.opmode = .ap ∧ t.ifflags = s.ifflags ||| 1)) ∧
    (∀ j, 1 ≤ j → t.ifflags.getLsbD j = s.ifflags.getLsbD j) ∧
    (s.ifflags.getLsbD 0 = true → t.ifflags.getLsbD 0 = true)

/-- 20 R63; 60 R330: a command only appends events, at most four and never beyond the capacity. -/
def Obligations.EventsAreOnlyAppended : Prop :=
  ∀ (i : Instr) (s t : State), exec i s = .next t → s.evtq.length ≤ s.cfg.evtcap →
    ∃ new : List Event, t.evtq = s.evtq ++ new ∧ new.length ≤ 4 ∧ t.evtq.length ≤ s.cfg.evtcap

/-! ### Counters and slots -/

/-- 45 R286: no failed command changes any counter of any slot. -/
def Obligations.FailedCommandsKeepEveryCounter : Prop :=
  ∀ (i : Instr) (s t : State), exec i s = .next t → t.code ≠ .ok →
    ∀ (n : Nat) (k : KeySlot), s.keys[n]? = some k → ∃ k', t.keys[n]? = some k' ∧ sameCounters k k'

/-- 45 R281: a successful encrypt advances the transmit counter by exactly one and leaves the receive counters alone. -/
def Obligations.EncryptAdvancesTheCounterByOne : Prop :=
  ∀ (slot : BitVec 8) (i : Instr) (s t : State) (k : KeySlot),
    i ∈ [Instr.ccmpEncrypt slot, Instr.tkipEncrypt slot] → exec i s = .next t → t.code = .ok →
    s.keys[slot.toNat]? = some k → ∃ k', t.keys[slot.toNat]? = some k' ∧
      k'.tsc.toNat = k.tsc.toNat + 1 ∧ k'.rsc = k.rsc ∧ k'.mgmtRsc = k.mgmtRsc

/-- 45 R283 to R285: a successful decrypt raises exactly the selected receive counter, to the counter value of the frame, and
leaves the transmit counter alone. -/
def Obligations.DecryptRaisesTheSelectedCounter : Prop :=
  ∀ (slot : BitVec 8) (s t : State) (k : KeySlot) (F : Octets), s.keys[slot.toNat]? = some k → s.frame = some F →
    t.code = .ok →
    (exec (.ccmpDecrypt slot) s = .next t → ccmpPrsc k F < rxPn F ∧
      ∃ k', t.keys[slot.toNat]? = some k' ∧ k'.tsc = k.tsc ∧ ccmpPrsc k' F = rxPn F ∧
        (isMgmt F = true → k'.rsc = k.rsc) ∧ (isMgmt F = false → k'.mgmtRsc = k.mgmtRsc ∧
          ∀ j : Fin 16, j.val ≠ (getTid F).toNat → k'.rsc[j] = k.rsc[j])) ∧
    (exec (.tkipDecrypt slot) s = .next t → tkipPrsc k F < rxTsc F ∧
      ∃ k', t.keys[slot.toNat]? = some k' ∧ k'.tsc = k.tsc ∧ tkipPrsc k' F = rxTsc F ∧ k'.mgmtRsc = k.mgmtRsc ∧
        ∀ j : Fin 16, j.val ≠ (getTid F).toNat → k'.rsc[j] = k.rsc[j])

/-- 10 R43: of its slot a transmit command writes only the transmit counter, the transmit cache and the RC4 engine, a receive
command only the receive counters, the receive cache and the RC4 engine; the key, the key index, the role and the CCMP key
schedule never change. -/
def Obligations.TransmitAndReceiveKeepToTheirWords : Prop :=
  ∀ (slot : BitVec 8) (i : Instr) (s t : State) (k : KeySlot), exec i s = .next t → s.keys[slot.toNat]? = some k →
    ∃ k', t.keys[slot.toNat]? = some k' ∧
    (i ∈ [Instr.ccmpEncrypt slot, Instr.tkipEncrypt slot] →
      k' = { k with tsc := k'.tsc, ctx := k'.ctx } ∧
      (∀ rk, k.ctx = .ccmp rk → k'.ctx = .ccmp rk) ∧ (k.ctx = .absent → k'.ctx = .absent) ∧
      (∀ c, k.ctx = .tkip c → ∃ c', k'.ctx = .tkip c' ∧
        c' = { c with txttak := c'.txttak, txttakOk := c'.txttakOk, rc4 := c'.rc4 })) ∧
    (i ∈ [Instr.ccmpDecrypt slot, Instr.tkipDecrypt slot] →
      k' = { k with rsc := k'.rsc, mgmtRsc := k'.mgmtRsc, ctx := k'.ctx } ∧
      (∀ rk, k.ctx = .ccmp rk → k'.ctx = .ccmp rk) ∧ (k.ctx = .absent → k'.ctx = .absent) ∧
      (∀ c, k.ctx = .tkip c → ∃ c', k'.ctx = .tkip c' ∧
        c' = { c with rxttak := c'.rxttak, rxttakOk := c'.rxttakOk, rc4 := c'.rc4 }))

/-- 10 R50: no command on one slot writes another slot, and none reads one: on two states that differ only in the other slots
a command gives the same outcome, and next states that differ only in the other slots. -/
def Obligations.SlotsAreIndependent : Prop :=
  ∀ (i : Instr) (slot : BitVec 8) (s : State) (keys : List KeySlot), i.slot? = some slot →
    keys.length = s.keys.length → keys[slot.toNat]? = s.keys[slot.toNat]? →
    (∀ t, exec i s = .next t → ∀ n, n ≠ slot.toNat → t.keys[n]? = s.keys[n]?) ∧
    (∀ t, exec i s = .next t → ∃ keys', exec i { s with keys := keys } = .next { t with keys := keys' } ∧
      keys'[slot.toNat]? = t.keys[slot.toNat]? ∧ ∀ n, n ≠ slot.toNat → keys'[n]? = keys[n]?) ∧
    (∀ f, exec i s = .fault f → exec i { s with keys := keys } = .fault f)

/-- 43 R230; 70 R371: the receive cache is tested against the selected counter alone: where it is valid and the upper 32 bits
agree it is used as it stands, whatever Phase1 output it holds, and neither it nor its flag changes; where it is recomputed
and the frame then fails, the new words stay and the flag is clear. -/
def Obligations.ReceiveCacheFollowsItsTest : Prop :=
  ∀ (slot : BitVec 8) (s t : State) (k : KeySlot) (c : TkipCtx) (F : Octets),
    s.keys[slot.toNat]? = some k → k.ctx = .tkip c → s.frame = some F →
    admissible s F 20 (rxTsc F) (tkipPrsc k F) → exec (.tkipDecrypt slot) s = .next t →
    ∃ (k' : KeySlot) (c' : TkipCtx), t.keys[slot.toNat]? = some k' ∧ k'.ctx = .tkip c' ∧
      (¬ rxStale c (rxTsc F) (tkipPrsc k F) → c'.rxttak = c.rxttak ∧ c'.rxttakOk = true) ∧
      (rxStale c (rxTsc F) (tkipPrsc k F) →
        c'.rxttak = phase1 (slice k.key.toList 0 16) (slice F 10 16) ((rxTsc F).extractLsb' 16 32) ∧
        (c'.rxttakOk = true ↔ t.code = .ok))

/-! ### Round trips and replay -/

/-- 42 R191 (a): a frame CCMP_ENCRYPT turned into `G` is given back by CCMP_DECRYPT, with PROTECTED cleared, on any slot of any
state that holds the same key schedule and whose selected receive counter is below the PN used. -/
def Obligations.CcmpDecryptUndoesCcmpEncrypt : Prop :=
  ∀ (a b : BitVec 8) (s s' t : State) (ka kb : KeySlot) (rk : List Block) (F G : Octets),
    s.keys[a.toNat]? = some ka → ka.ctx = .ccmp rk → s.frame = some F →
    exec (.ccmpEncrypt a) s = .next s' → s'.code = .ok → memReadAll s'.outbuf 0 s'.outlen.toNat = some G →
    s'.outlen.toNat = F.length + 16 →
    t.keys[b.toNat]? = some kb → kb.ctx = .ccmp rk → t.frame = some G → t.allocFail = false →
    F.length ≤ t.cfg.outcap → ccmpPrsc kb F < ka.tsc + 1 →
    exec (.ccmpDecrypt b) t = .next
      (frameSuccess t (t.keys.set b.toNat (ccmpCommitted kb F (ka.tsc + 1))) (F.set 1 (oct F 1 &&& 0xBF)))

/-- 44 R251 (a): a frame TKIP_ENCRYPT turned into `G` is given back by TKIP_DECRYPT, with PROTECTED cleared, on a slot with the
same TK whose receive Michael key is the sender's transmit key and whose selected counter is below the TSC used. The hazards
of 70 R371 and R372 are shut out by a premise: each side's cache, where its test lets it be used, holds the Phase1 output of
the frame's own address and upper counter. -/
def Obligations.TkipDecryptUndoesTkipEncrypt : Prop :=
  ∀ (a b : BitVec 8) (s s' t : State) (ka kb : KeySlot) (ca cb : TkipCtx) (F G : Octets) (p1k : Ttak),
    s.keys[a.toNat]? = some ka → ka.ctx = .tkip ca → s.frame = some F →
    exec (.tkipEncrypt a) s = .next s' → s'.code = .ok → memReadAll s'.outbuf 0 s'.outlen.toNat = some G →
    s'.outlen.toNat = F.length + 20 →
    t.keys[b.toNat]? = some kb → kb.ctx = .tkip cb → t.frame = some G → t.allocFail = false →
    F.length ≤ t.cfg.outcap → tkipPrsc kb F < ka.tsc + 1 →
    slice kb.key.toList 0 16 = slice ka.key.toList 0 16 →
    kb.michaelKey cb.rxmicOff = ka.michaelKey ca.txmicOff →
    p1k = phase1 (slice ka.key.toList 0 16) (slice F 10 16) ((ka.tsc + 1).extractLsb' 16 32) →
    txCache ka ca F (ka.tsc + 1) = p1k →
    (¬ rxStale cb (ka.tsc + 1) (tkipPrsc kb F) → cb.rxttak = p1k) →
    ∃ st : Rc4, exec (.tkipDecrypt b) t = .next
      (frameSuccess t
        (t.keys.set b.toNat
          { kb with rsc := kb.rsc.set (getTid F).toNat (ka.tsc + 1) (getTid F).isLt,
                    ctx := .tkip { cb with rc4 := st, rxttak := p1k, rxttakOk := true } })
        (F.set 1 (oct F 1 &&& 0xBF)))

/-- 42 R186, R187: CCM decryption of a CCM ciphertext gives the data and the same MIC. -/
def Obligations.CcmDecryptUndoesCcmEncrypt : Prop :=
  ∀ (rk : List Block) (nonce auth data : Octets),
    ccm rk nonce auth (ccm rk nonce auth data .encrypt).1 .decrypt = (data, (ccm rk nonce auth data .encrypt).2)

/-- 41 R157: one keystream continues over successive calls, and the same run undoes itself. -/
def Obligations.Rc4ContinuesAndUndoesItself : Prop :=
  ∀ (st : Rc4) (x y : Octets),
    (rc4Crypt st (x ++ y)).1 = (rc4Crypt st x).1 ++ (rc4Crypt (rc4Crypt st x).2 y).1 ∧
    (rc4Crypt st (x ++ y)).2 = (rc4Crypt (rc4Crypt st x).2 y).2 ∧
    (rc4Crypt st (rc4Crypt st x).1).1 = x

/-- 42 R191 (b), 44 R251 (c), 45 R284: a frame a decrypt command accepted is a REPLAY when the host feeds it again, whatever
the inputs are then. -/
def Obligations.AcceptedFrameIsAReplayTheSecondTime : Prop :=
  ∀ (slot : BitVec 8) (i : Instr) (s t : State) (b : Bool) (now : BitVec 64),
    i ∈ [Instr.ccmpDecrypt slot, Instr.tkipDecrypt slot] → exec i s = .next t → t.code = .ok →
    exec i { t with inlen := s.inlen, allocFail := b, ticks := now } = .next
      (frameFailure { t with inlen := s.inlen, allocFail := b, ticks := now } .replay)

/-- 44 R251 (b): of a TKIP frame whose ICV passes, any single-bit flip in the encrypted body, MIC or ICV makes TKIP_DECRYPT
fail, and with ICV_FAIL_TKIP. -/
def Obligations.SingleBitFlipsFailTheIcv : Prop :=
  ∀ (slot : BitVec 8) (s t : State) (k : KeySlot) (c : TkipCtx) (F : Octets) (j b : Nat),
    s.keys[slot.toNat]? = some k → k.ctx = .tkip c → s.frame = some F →
    admissible s F 20 (rxTsc F) (tkipPrsc k F) → exec (.tkipDecrypt slot) s = .next t → t.code ≠ .icvFailTkip →
    hdrlen F + 8 ≤ j → j < F.length → b < 8 →
    ∃ t', exec (.tkipDecrypt slot) { s with inbuf := memWrite s.inbuf j (oct F j ^^^ BitVec.twoPow 8 b) } = .next t' ∧
      t'.code = .icvFailTkip

/-- 42 R191 (c): a change of any octets inside the MIC field of a frame CCMP_DECRYPT accepts makes it fail AUTH_FAIL_CCMP,
with the slot unchanged. -/
def Obligations.ChangedMicsFailTheAuthentication : Prop :=
  ∀ (slot : BitVec 8) (s t : State) (F mic : Octets), s.frame = some F → exec (.ccmpDecrypt slot) s = .next t →
    t.code = .ok → mic.length = 8 → mic ≠ slice F (F.length - 8) F.length →
    exec (.ccmpDecrypt slot) { s with inbuf := memWriteAll s.inbuf (F.length - 8) mic } =
      .next (frameFailure { s with inbuf := memWriteAll s.inbuf (F.length - 8) mic } .authFailCcmp)

/-- 60 R332 with 20 R65: a command either completes or fails synchronously, and a failure too is a next state: the key commands
and MIC_FAILURE answer one in every state, and the commands that read a frame answer one whenever every octet of the frame
was written. -/
def Obligations.EveryCommandEndsInANextState : Prop :=
  ∀ (i : Instr) (s : State),
    (isFrame i = false → i ≠ .tkipMic → ∃ t, exec i s = .next t) ∧
    ((∀ a, a < s.inlen.toNat → memRead s.inbuf a ≠ none) → ∃ t, exec i s = .next t)

/-! ### Formats -/

/-- 40 R134; 30 R104, R105: the header lengths, the AAD lengths, and the AAD area of exactly two blocks: its length, the AAD,
zeros. The nonce has 13 octets (R103). -/
def Obligations.AadAreaIsTwoBlocks : Prop :=
  ∀ F : Octets, headerOk F = true →
    hdrlen F ∈ [24, 26, 28, 30, 32, 34, 36] ∧ (aad F).length ∈ [22, 24, 28, 30] ∧ (ccmAuth F).length = 32 ∧
    slice (ccmAuth F) 0 2 = be16 (BitVec.ofNat 16 (aad F).length) ∧
    slice (ccmAuth F) 2 (2 + (aad F).length) = aad F ∧
    slice (ccmAuth F) (2 + (aad F).length) 32 = zeros (30 - (aad F).length) ∧
    ∀ pn : BitVec 48, (ccmNonce F pn).length = 13

/-- 30 R105, R103: the duration, the sequence number, RETRY, PWR_MGT and MORE_DATA, the upper 12 bits of QoS control, and the
HT control field are not authenticated: changing any of them leaves the AAD area and the nonce as they were. -/
def Obligations.UnauthenticatedFieldsDoNotMatter : Prop :=
  ∀ (F : Octets) (x y z v w : Octet) (pn : BitVec 48), headerOk F = true →
    (∀ G ∈ ([(F.set 2 x).set 3 y, (F.set 23 z).set 22 (oct F 22 ^^^ (v &&& 0xF0)),
        F.set 1 (oct F 1 ^^^ (w &&& 0x38))] : List Octets), ccmAuth G = ccmAuth F ∧ ccmNonce G pn = ccmNonce F pn) ∧
    (hasQos F = true → ∀ G : Octets,
      G = (F.set (qosOffset F + 1) z).set (qosOffset F) (oct F (qosOffset F) ^^^ (v &&& 0xF0)) →
      ccmAuth G = ccmAuth F ∧ ccmNonce G pn = ccmNonce F pn) ∧
    (hasHtc F = true → ∀ j, hdrlen F - 4 ≤ j → j < hdrlen F →
      ccmAuth (F.set j x) = ccmAuth F ∧ ccmNonce (F.set j x) pn = ccmNonce F pn)

/-- 30 R110, R113; 44 R251 (d): the first three octets of every TKIP header are those of the frame's RC4 key, and octet 1 is
fixed by octet 0. -/
def Obligations.TkipHeaderShowsTheKeyPrefix : Prop :=
  ∀ (tk : Octets) (p1k : Ttak) (tsc : BitVec 48) (id : BitVec 2),
    (tkipHeader tsc id).take 3 = (phase2 tk p1k (iv16 tsc)).take 3 ∧
    oct (phase2 tk p1k (iv16 tsc)) 1 = (oct (phase2 tk p1k (iv16 tsc)) 0 ||| 0x20) &&& 0x7F ∧
    (phase2 tk p1k (iv16 tsc)).length = 16

/-- 10 R21: octet `i` of a string laid over the operand registers is bits `8(i mod 4)+7 : 8(i mod 4)` of register
`base + i div 4`. -/
def Obligations.OperandOctetsAreLittleEndian : Prop :=
  ∀ (s : State) (i : Fin 32),
    s.keyin.length = 32 ∧ oct s.keyin i = (s.opr[i.val / 4]'(by omega)).extractLsb' (8 * (i.val % 4)) 8 ∧
    (i.val < 8 → oct s.mickey i = (s.opr[8 + i.val / 4]'(by omega)).extractLsb' (8 * (i.val % 4)) 8)

/-! ### Reset and the host's side -/

/-- 70 R360: the reset values, of the state right after reset and after a reset event. The inputs, the open parameters and the
model's own fields are no state of the block; that the event leaves them is the model's choice (entry 14). -/
def Obligations.ResetGivesTheStatedValues : Prop :=
  (∀ (s : State) (rest : List HostAccess), s.host = .resetEvent :: rest → step s = .next
    { opr := Vector.replicate 16 0, code := .ok, outValid := false, inlen := 0, outlen := 0, ifflags := 0, opmode := .sta,
      micfailTick := 0, micfailTsc := 0, micfailSeen := false, slotsel := 0, tidsel := 0,
      keys := List.replicate s.nkeys KeySlot.empty, inbuf := [], outbuf := [], evtq := [],
      ticks := s.ticks, allocFail := s.allocFail, cfg := s.cfg, host := rest, rdata := s.rdata,
      freeCount := s.freeCount }) ∧
  State.reset.opr = Vector.replicate 16 0 ∧ State.reset.code = .ok ∧ State.reset.outValid = false ∧
  State.reset.inlen = 0 ∧ State.reset.outlen = 0 ∧ State.reset.ifflags = 0 ∧ State.reset.opmode = .sta ∧
  State.reset.micfailTick = 0 ∧ State.reset.micfailTsc = 0 ∧ State.reset.micfailSeen = false ∧
  State.reset.slotsel = 0 ∧ State.reset.tidsel = 0 ∧ (∀ k ∈ State.reset.keys, k = KeySlot.empty) ∧
  State.reset.inbuf = [] ∧ State.reset.outbuf = [] ∧ State.reset.evtq = []

/-- 70 R361: while all slots are empty every frame command fails BAD_KEY and every DELETE_KEY succeeds without effect;
TKIP_MIC and MIC_FAILURE work at once. -/
def Obligations.EmptySlotsRefuseFrames : Prop :=
  ∀ (i : Instr) (s : State), s.keys = List.replicate s.nkeys KeySlot.empty → i.wellFormed s.nkeys = true →
    (isFrame i = true → exec i s = .next (frameFailure s .badKey)) ∧
    (∀ slot, i ∈ [Instr.ccmpDeleteKey slot, Instr.tkipDeleteKey slot] → exec i s = .next { s with code := .ok }) ∧
    (∀ F : Octets, s.frame = some F → headerOk F = true → (s.opr[11].extractLsb' 0 16).toNat ≤ F.length → i = .tkipMic →
      ∃ t, exec i s = .next t ∧ t.code = .ok) ∧
    (i = .micFailure → ∃ t, exec i s = .next t ∧ t.code = .ok)

/-- 10 R21, R24 (D35): a host write of a read-only register, of an input register or of `OPR[14..15]` changes nothing. That a
write of an input register is ignored is the model's reading (entry 8). -/
def Obligations.WritesOfReadOnlyRegistersAreIgnored : Prop :=
  ∀ (s : State) (rest : List HostAccess),
    (∀ (r : Csr) (v : BitVec 64), r ∈ [Csr.status, .outlen, .micfailTick, .micfailTsc, .micfailSeen, .ksInfo, .ksTsc,
        .ksRsc, .ksMgmtRsc, .evtCount, .evtPop, .ticks, .allocFail] →
      s.host = .csrWrite r v :: rest → step s = .next { s with host := rest }) ∧
    (∀ (j : Fin 16) (v : BitVec 32), 14 ≤ j.val → s.host = .oprWrite j v :: rest →
      step s = .next { s with host := rest }) ∧
    (∀ (j : Fin 16) (v : BitVec 32), j.val < 14 → s.host = .oprWrite j v :: rest → ∃ o : Vector (BitVec 32) 16,
      step s = .next { s with host := rest, opr := o } ∧ o[j] = v ∧ ∀ m : Fin 16, m ≠ j → o[m] = s.opr[m])

/-- 10 R27: a written `INLEN` is stored, and one above `INCAP` is stored as `INCAP`; nothing else changes. -/
def Obligations.InlenIsClamped : Prop :=
  ∀ (s : State) (v : BitVec 64) (rest : List HostAccess), s.ParamsOk → s.host = .csrWrite .inlen v :: rest →
    ∃ n : BitVec 16, step s = .next { s with host := rest, inlen := n } ∧
      n.toNat = min (v.toNat % 65536) s.cfg.incap

/-- 10 R24, R29, R30, R33 (D35): a host write of `IFFLAGS`, `OPMODE`, `SLOTSEL` or `TIDSEL` stores as many low bits as the
register is wide and changes nothing else. In particular a written 0 in bit 0 of `IFFLAGS` is what clears
COUNTERMEASURES_ACTIVE, and the host may set it as well (10 R29). -/
def Obligations.HostWritesStoreTheirRegisters : Prop :=
  ∀ (s : State) (v : BitVec 64) (rest : List HostAccess),
    (s.host = .csrWrite .ifflags v :: rest → ∃ n : BitVec 32, step s = .next { s with host := rest, ifflags := n } ∧
      n = v.extractLsb' 0 32 ∧ n.getLsbD 0 = v.getLsbD 0) ∧
    (s.host = .csrWrite .opmode v :: rest →
      step s = .next { s with host := rest, opmode := if v.getLsbD 0 then .ap else .sta }) ∧
    (s.host = .csrWrite .slotsel v :: rest → step s = .next { s with host := rest, slotsel := v.extractLsb' 0 8 }) ∧
    (s.host = .csrWrite .tidsel v :: rest → step s = .next { s with host := rest, tidsel := v.extractLsb' 0 4 })

/-- 10 R21, R24; 20 R69: a read of a register returns its whole content with zeros above its width and changes nothing but the
read data. `CMD` reads 0 (D35). `EVT_COUNT` has the low 16 bits of the number of events (entry 10); that the two input
registers read as what the environment presents is the model's reading (entry 8). -/
def Obligations.RegisterReadsReturnTheirContent : Prop :=
  ∀ (s : State) (rest : List HostAccess),
    (∀ (r : Csr) (v : BitVec 64),
      (r, v) ∈ [(Csr.cmd, (0 : BitVec 64)), (.inlen, s.inlen.setWidth 64), (.outlen, s.outlen.setWidth 64),
        (.ifflags, s.ifflags.setWidth 64), (.opmode, if s.opmode = .ap then 1 else 0), (.micfailTick, s.micfailTick),
        (.micfailTsc, s.micfailTsc.setWidth 64), (.micfailSeen, if s.micfailSeen then 1 else 0),
        (.slotsel, s.slotsel.setWidth 64), (.tidsel, s.tidsel.setWidth 64),
        (.evtCount, BitVec.ofNat 64 (s.evtq.length % 65536)), (.ticks, s.ticks),
        (.allocFail, if s.allocFail then 1 else 0)] →
      s.host = .csrRead r :: rest → step s = .next { s with host := rest, rdata := v }) ∧
    (∀ j : Fin 16, s.host = .oprRead j :: rest → step s = .next { s with host := rest, rdata := s.opr[j].setWidth 64 })

/-- 20 R69: every read but that of `EVT_POP` is idempotent: of two reads in a row the second returns what the first returned and
changes nothing. That an octet of `OUTBUF` without a value keeps what the first read found is the model's choice
(entry 5). -/
def Obligations.RepeatedReadsAgree : Prop :=
  ∀ (s : State) (a : HostAccess) (rest : List HostAccess), s.host = a :: a :: rest →
    ((∃ r : Csr, r ≠ .evtPop ∧ a = .csrRead r) ∨ (∃ j : Fin 16, a = .oprRead j) ∨
      (∃ y, y < s.cfg.incap ∧ memRead s.inbuf y ≠ none ∧ a = .inbufRead y) ∨
      (∃ y, y < s.cfg.outcap ∧ a = .outbufRead y)) →
    ∃ t, step s = .next t ∧ t.host = a :: rest ∧ step t = .next { t with host := rest }

/-- 10 R34, 30 R124: a read of `EVT_POP` returns the oldest event's record and removes it; on an empty queue it returns 0 and
changes nothing but the read data (entry 9). -/
def Obligations.EvtPopTakesTheOldest : Prop :=
  ∀ (s : State) (rest : List HostAccess), s.host = .csrRead .evtPop :: rest →
    (s.evtq = [] → step s = .next { s with host := rest, rdata := 0 }) ∧
    (∀ e q, s.evtq = e :: q → ∃ v : BitVec 64, step s = .next { s with host := rest, evtq := q, rdata := v } ∧
      v.extractLsb' 0 48 = e.tsc ∧ v.extractLsb' 52 12 = 0 ∧
      v.extractLsb' 48 4 = (match e.code with
        | .apDeauthTkipStas => 1
        | .eapolKeyReq => 2
        | .deauthBss => 3
        | .scan => 4))

/-- 10 R33, R51: a read of a `KS_*` register returns a counter or the fields of slot `SLOTSEL`, and 0 when there is no such slot
or the slot is empty; it changes nothing but the read data. Without a TKIP key the two cache flags read 0 (10 R38). -/
def Obligations.KeyWindowShowsTheSelectedSlot : Prop :=
  ∀ (s : State) (rest : List HostAccess),
    ((s.nkeys ≤ s.slotsel.toNat ∨ ∃ k, s.keys[s.slotsel.toNat]? = some k ∧ k.cipher = .none) →
      ∀ r ∈ [Csr.ksInfo, .ksTsc, .ksRsc, .ksMgmtRsc], s.host = .csrRead r :: rest →
        step s = .next { s with host := rest, rdata := 0 }) ∧
    (∀ k, s.keys[s.slotsel.toNat]? = some k → k.cipher ≠ .none →
      (s.host = .csrRead .ksTsc :: rest → step s = .next { s with host := rest, rdata := k.tsc.setWidth 64 }) ∧
      (s.host = .csrRead .ksMgmtRsc :: rest → step s = .next { s with host := rest, rdata := k.mgmtRsc.setWidth 64 }) ∧
      (s.host = .csrRead .ksRsc :: rest →
        step s = .next { s with host := rest, rdata := (k.rsc[s.tidsel.toNat]'s.tidsel.isLt).setWidth 64 }) ∧
      (s.host = .csrRead .ksInfo :: rest → ∃ v : BitVec 64, step s = .next { s with host := rest, rdata := v } ∧
        v.extractLsb' 0 2 = (if k.cipher = .ccmp then 1 else 2) ∧ v.extractLsb' 2 2 = k.id ∧ v.getLsbD 4 = k.group ∧
        (∀ rk, k.ctx = .ccmp rk → v.getLsbD 5 = false ∧ v.getLsbD 6 = false) ∧
        (∀ c, k.ctx = .tkip c → v.getLsbD 5 = c.txttakOk ∧ v.getLsbD 6 = c.rxttakOk) ∧
        v.extractLsb' 7 57 = 0))

/-- 10 R24, R26; 60 R320: a read of `STATUS` returns in bits 7:0 the number the table of codes gives CODE, OUT_VALID in bit 8
and zeros above, and changes nothing but the read data. -/
def Obligations.StatusReadsCodeAndOutValid : Prop :=
  ∀ (s : State) (rest : List HostAccess), s.host = .csrRead .status :: rest →
    ∃ v : BitVec 64, step s = .next { s with host := rest, rdata := v } ∧ v.getLsbD 8 = s.outValid ∧
      v.extractLsb' 9 55 = 0 ∧
      ([.ok, .nomem, .malformed, .noExtIv, .replay, .authFailCcmp, .icvFailTkip, .micFailTkip, .badKey, .illegalCmd,
        .pnExhausted] : List Status)[(v.extractLsb' 0 8).toNat]? = some s.code

/-- 20 R60, R65, R69: a host write of octets within `INBUF` stores exactly those octets at exactly those addresses and changes
nothing else; every octet outside the range reads as before. -/
def Obligations.InbufWriteStoresExactlyItsOctets : Prop :=
  ∀ (s : State) (a : Nat) (bs : Octets) (rest : List HostAccess), s.host = .inbufWrite a bs :: rest →
    a + bs.length ≤ s.cfg.incap → ∃ m : Mem,
      step s = .next { s with host := rest, inbuf := m } ∧
      (∀ j, j < bs.length → memRead m (a + j) = bs[j]?) ∧
      (∀ y, y < a ∨ a + bs.length ≤ y → memRead m y = memRead s.inbuf y)

/-- 20 R61: after a frame command that succeeds the host reads the output frame octet by octet; an octet of `OUTBUF` that
holds no value can still be read, and what it returns is open; it holds that value from then on, and every other octet is
as before (entry 5). -/
def Obligations.OutbufReadsReturnTheOutputFrame : Prop :=
  ∀ (s : State) (a : Nat) (rest : List HostAccess), s.host = .outbufRead a :: rest → a < s.cfg.outcap →
    (∀ v, memRead s.outbuf a = some v → step s = .next { s with host := rest, rdata := v.setWidth 64 }) ∧
    (memRead s.outbuf a = none → ∃ (v : Octet) (m : Mem),
      step s = .next { s with host := rest, rdata := v.setWidth 64, outbuf := m, freeCount := s.freeCount + 1 } ∧
      memRead m a = some v ∧ ∀ y, y ≠ a → memRead m y = memRead s.outbuf y)

/-! ### Invariants -/

/-- Every step keeps the buffers in canonical form and within their capacities, and keeps the lengths within the buffers with
the output frame present exactly while OUT_VALID is 1 (20 R60, R61; 10 R26 to R28). -/
def Obligations.StepKeepsTheBuffers : Prop :=
  ∀ s t : State, s.BuffersOk → s.LengthsOk → step s = .next t → t.BuffersOk ∧ t.LengthsOk

/-- Every step keeps every key slot coherent: empty or with a context that fits its key (10 R41, R48, R49, R51). -/
def Obligations.StepKeepsTheSlotsCoherent : Prop :=
  ∀ s t : State, s.SlotsOk → step s = .next t → t.SlotsOk

/-- Every step keeps the event queue within its capacity, the failure record empty until a failure is recorded, and the open
parameters and the number of slots as they are (20 R63; 10 R31, R37; 00 R7). -/
def Obligations.StepKeepsTheTrackerAndTheParameters : Prop :=
  ∀ s t : State, s.TrackerOk → step s = .next t → t.TrackerOk ∧ t.cfg = s.cfg ∧ t.nkeys = s.nkeys

/-- The state right after reset meets the invariant, with the parameter values of entry 1 (70 R360). -/
def Obligations.ResetMeetsTheInvariant : Prop := State.reset.Inv
end

