-- ==== Sys2Proof/Laws/Units.lean ====
section
/-! SUPPORT. The lengths and shapes the units promise (30 R100 to R114; 40 R134, R135; 41; 42 R187). -/

namespace Sys2Proof

@[simp] theorem Block.octets_length (b : Block) : b.octets.length = 16 := rfl
@[simp] theorem le32Bytes_length (v : BitVec 32) : (le32Bytes v).length = 4 := rfl
@[simp] theorem be16_length (v : BitVec 16) : (be16 v).length = 2 := rfl
@[simp] theorem zeros_length (n : Nat) : (zeros n).length = n := by simp [zeros]
@[simp] theorem michael_length (key msg : Octets) : (michael key msg).length = 8 := rfl
@[simp] theorem icv_length (data : Octets) : (icv data).length = 4 := rfl
@[simp] theorem frameMic_length (key F body : Octets) : (frameMic key F body).length = 8 := rfl
@[simp] theorem ccmpHeader_length (pn : BitVec 48) (id : BitVec 2) : (ccmpHeader pn id).length = 8 := rfl
@[simp] theorem tkipHeader_length (pn : BitVec 48) (id : BitVec 2) : (tkipHeader pn id).length = 8 := rfl
@[simp] theorem rc4Key_length (tk : Octets) (p : Ppk) (iv : BitVec 16) : (rc4Key tk p iv).length = 16 := rfl
@[simp] theorem ccmS_length (rk : List Block) (N : Octets) (c : Nat) : (ccmS rk N c).length = 16 := rfl
@[simp] theorem clearProtected_length (h : Octets) : (clearProtected h).length = h.length := by simp [clearProtected]

theorem slice_length (s : Octets) (i j : Nat) : (slice s i j).length = min (j - i) (s.length - i) := by simp [slice]

@[simp] theorem xorOctets_length (a b : Octets) : (xorOctets a b).length = min a.length b.length := by simp [xorOctets]

/-- RC4 keeps the length of the data (41 R157). -/
@[simp] theorem rc4Crypt_length (st : Rc4) (d : Octets) : (rc4Crypt st d).1.length = d.length := by
  induction d generalizing st with
  | nil => rfl
  | cons x d ih => simp [rc4Crypt, ih]

theorem rc4Swap_length (S : Octets) (a b : Octet) : (rc4Swap S a b).length = S.length := by simp [rc4Swap]

theorem rc4Schedule_length (key : Octets) (n k : Nat) (S : Octets) (j : Octet) :
    (rc4Schedule key n k S j).length = S.length := by
  induction n generalizing k S j with
  | zero => rfl
  | succ n ih => simp [rc4Schedule, ih, rc4Swap_length]

/-- Key setup fills `S[0..255]` (41 R156). -/
theorem rc4Keysetup_table (key : Octets) : (rc4Keysetup key).S.length = 256 := by
  simp [rc4Keysetup, rc4Schedule_length]

/-- Running the cipher keeps the table's 256 octets (41 R157). -/
theorem rc4Crypt_table (st : Rc4) (d : Octets) : (rc4Crypt st d).2.S.length = st.S.length := by
  induction d generalizing st with
  | nil => rfl
  | cons x d ih => simp [rc4Crypt, ih, rc4Next, rc4Swap_length]

/-- The engine state of an install has 256 octets, all free (10 R49). -/
theorem rc4Free_table (n : Nat) : (rc4Free n).S.length = 256 := by simp [rc4Free]

/-- The data pass outputs as many octets as it takes in (42 R186). -/
theorem ccmPass_length (rk : List Block) (N : Octets) (dir : CcmDir) (nb i : Nat) (d : Octets) (x : Block)
    (h : d.length ≤ 16 * nb) : (ccmPass rk N dir nb i d x).1.length = d.length := by
  induction nb generalizing i d x with
  | zero =>
    have : d.length = 0 := by omega
    simp [ccmPass, this]
  | succ nb ih =>
    simp only [ccmPass, List.length_append, xorOctets_length, ccmS_length]
    rw [ih (i + 1) (d.drop 16) _ (by simp; omega)]
    simp; omega

/-- `len(O) = lm` (42 R186). -/
@[simp] theorem ccm_output_length (rk : List Block) (N auth d : Octets) (dir : CcmDir) :
    (ccm rk N auth d dir).1.length = d.length :=
  ccmPass_length rk N dir _ 1 d _ (by omega)

/-- The MIC has 8 octets (42 R187). -/
@[simp] theorem ccm_mic_length (rk : List Block) (N auth d : Octets) (dir : CcmDir) :
    (ccm rk N auth d dir).2.length = 8 := by
  simp only [ccm, List.length_take, xorOctets_length, Block.octets_length, ccmS_length]
  rfl

/-- Header admission gives a header that fits the frame (40 R135). -/
theorem headerOk_hdrlen {F : Octets} (h : headerOk F = true) : hdrlen F ≤ F.length := by
  simp only [headerOk, Bool.and_eq_true, decide_eq_true_eq] at h
  exact h.2

/-- The header has at least 24 octets (40 R134). -/
theorem hdrlen_ge (F : Octets) : 24 ≤ hdrlen F := by simp only [hdrlen]; omega

/-- The header has at most 36 octets (40 R134). -/
theorem hdrlen_le (F : Octets) : hdrlen F ≤ 36 := by simp only [hdrlen]; split <;> split <;> split <;> omega

namespace Machine

/-- The output of CCMP_ENCRYPT is 16 octets longer than its input (30 R102). -/
theorem ccmpProtect_length {rk : List Block} {id : BitVec 2} {pn : BitVec 48} {F : Octets} (h : headerOk F = true) :
    (ccmpProtect rk id pn F).length = F.length + 16 := by
  have := headerOk_hdrlen h
  simp [ccmpProtect]; omega

/-- The body CCMP_DECRYPT recovers is `INLEN - hdrlen - 16` octets long (42 R190). -/
theorem ccmpOpen_length {rk : List Block} {pn : BitVec 48} {F : Octets} (h : hdrlen F + 16 ≤ F.length) :
    (ccmpOpen rk pn F).1.length = F.length - hdrlen F - 16 := by
  simp [ccmpOpen, slice_length]; omega

/-- Body, MIC and ICV (30 R112). -/
theorem tkipPlain_length (txmic F : Octets) : (tkipPlain txmic F).length = F.length - hdrlen F + 12 := by
  simp [tkipPlain]

/-- The three parts of a decrypted string of at least 12 octets (44 R247). -/
theorem tkipCut_lengths {d : Octets} (h : 12 ≤ d.length) :
    (tkipCut d).body.length = d.length - 12 ∧ (tkipCut d).rmic.length = 8 ∧ (tkipCut d).ricv.length = 4 := by
  simp only [tkipCut, slice_length]; omega

end Machine
end Sys2Proof
end

