-- ==== Sys2Proof/Laws/Header.lean ====
section
/-! SUPPORT. Everything the block derives from a header depends on the header's octets alone (40 R130 to R137; 30 R103 to
R105, R114), and the two counter layouts give the counter back (30 R100, R101, R110, R111). -/

namespace Sys2Proof

/-- `G` carries the header of `F`: the same octets below `hdrlen F`. -/
structure SameHeader (F G : Octets) : Prop where
  octet : ∀ i, i < hdrlen F → oct G i = oct F i
  part : ∀ i j, j ≤ hdrlen F → slice G i j = slice F i j

theorem sameHeader_of_take {F G : Octets} (h : G.take (hdrlen F) = F.take (hdrlen F)) : SameHeader F G := by
  constructor
  · intro i hi
    have := congrArg (fun x : Octets => x[i]?) h
    simp only [List.getElem?_take, hi, if_true] at this
    simp [oct, List.getD, this]
  · intro i j hj
    have e : ∀ X : Octets, slice X i j = ((X.take (hdrlen F)).take j).drop i := fun X => by
      simp only [slice, List.take_take, List.drop_take, Nat.min_eq_left hj]
    rw [e, e, h]

section
variable {F G : Octets} (h : SameHeader F G)
include h

theorem SameHeader.low {i : Nat} (hi : i < 24) : oct G i = oct F i := h.octet i (by have := hdrlen_ge F; omega)

theorem SameHeader.lowPart {i j : Nat} (hj : j ≤ 24) : slice G i j = slice F i j :=
  h.part i j (by have := hdrlen_ge F; omega)

theorem SameHeader.hasAddr4 : hasAddr4 G = hasAddr4 F := by simp [Sys2Proof.hasAddr4, h.low]
theorem SameHeader.hasQos : hasQos G = hasQos F := by simp [Sys2Proof.hasQos, h.low]
theorem SameHeader.isMgmt : isMgmt G = isMgmt F := by simp [Sys2Proof.isMgmt, ftype, h.low]
theorem SameHeader.isData : isData G = isData F := by simp [Sys2Proof.isData, ftype, h.low]
theorem SameHeader.hasHtc : hasHtc G = hasHtc F := by simp [Sys2Proof.hasHtc, h.low, h.hasQos, h.isMgmt]
theorem SameHeader.hdrlen : hdrlen G = hdrlen F := by simp [Sys2Proof.hdrlen, h.hasAddr4, h.hasQos, h.hasHtc]
theorem SameHeader.direction : direction G = direction F := by simp [Sys2Proof.direction, h.low]

theorem SameHeader.getQos (hq : Sys2Proof.hasQos F = true) : getQos G = getQos F := by
  have hlt : qosOffset F + 1 < Sys2Proof.hdrlen F := by
    simp only [qosOffset, Sys2Proof.hdrlen, hq]; split <;> simp <;> omega
  have e : qosOffset G = qosOffset F := by simp [qosOffset, h.hasAddr4]
  simp [Sys2Proof.getQos, le16, e, h.octet _ hlt, h.octet _ (Nat.lt_of_succ_lt hlt)]

theorem SameHeader.getTid : getTid G = getTid F := by
  simp only [Sys2Proof.getTid, h.hasQos]
  split
  · next hq => rw [h.getQos hq]
  · rfl

theorem SameHeader.addr4 (ha : Sys2Proof.hasAddr4 F = true) : addr4 G = addr4 F := by
  apply h.part; simp [Sys2Proof.hdrlen, ha]; omega

theorem SameHeader.aad : aad G = aad F := by
  simp only [Sys2Proof.aad, h.isData, h.hasHtc, h.hasAddr4, h.hasQos, h.low (show 0 < 24 by omega),
    h.low (show 1 < 24 by omega), h.low (show 22 < 24 by omega), h.lowPart (show 22 ≤ 24 by omega)]
  congr 1
  · congr 1
    split
    · next ha => rw [h.addr4 ha]
    · rfl
  · split
    · next hq => rw [h.getQos hq]
    · rfl

theorem SameHeader.ccmAuth : ccmAuth G = ccmAuth F := by
  simp [Sys2Proof.ccmAuth, aadLen, h.hasAddr4, h.hasQos, h.aad]

theorem SameHeader.ccmNonce (pn : BitVec 48) : ccmNonce G pn = ccmNonce F pn := by
  simp [Sys2Proof.ccmNonce, nonceFlags, h.isMgmt, h.getTid, addr2, h.lowPart]

omit h in
/-- A frame between two distribution systems has Address 4 (40 R132). -/
theorem hasAddr4_of_dstods (hd : Sys2Proof.direction F = .dstods) : Sys2Proof.hasAddr4 F = true := by
  unfold Sys2Proof.direction at hd
  have : (oct F 1 &&& 3).toNat < 4 := by simp; exact Nat.lt_of_le_of_lt Nat.and_le_right (by omega)
  simp only [Sys2Proof.hasAddr4, beq_iff_eq]
  split at hd
  · cases hd
  · cases hd
  · cases hd
  · rename_i h0 h1 h2
    apply BitVec.eq_of_toNat_eq
    change _ = 3
    generalize (oct F 1 &&& 3).toNat = x at *
    match x with
    | 0 => exact (h0 rfl).elim
    | 1 => exact (h1 rfl).elim
    | 2 => exact (h2 rfl).elim
    | 3 => rfl
    | n + 4 => omega

theorem SameHeader.pseudo : pseudo G = pseudo F := by
  have : michaelAddrs G = michaelAddrs F := by
    simp only [michaelAddrs, h.direction]
    split <;> simp [addr1, addr2, addr3, h.lowPart]
    next hd => exact h.addr4 (hasAddr4_of_dstods hd)
  simp [Sys2Proof.pseudo, this, h.getTid]

theorem SameHeader.frameMic (key body : Octets) : frameMic key G body = frameMic key F body := by
  simp [Sys2Proof.frameMic, h.pseudo]

theorem SameHeader.headerOk (hF : Sys2Proof.headerOk F = true) (hl : F.length ≤ G.length) : headerOk G = true := by
  simp only [Sys2Proof.headerOk, Bool.and_eq_true, decide_eq_true_eq, h.isMgmt, h.isData, h.hdrlen] at *
  exact ⟨⟨by omega, hF.1.2⟩, by omega⟩

theorem SameHeader.ccmpSel : Machine.ccmpSel G = Machine.ccmpSel F := by simp [Machine.ccmpSel, h.isMgmt, h.getTid]
theorem SameHeader.tkipSel : Machine.tkipSel G = Machine.tkipSel F := by simp [Machine.tkipSel, h.getTid]

end

/-- The six octets of a counter, put together again, are the counter (30 R100, R101, R110, R111). -/
theorem mkPn_pnOctets (pn : BitVec 48) :
    mkPn (pnOctet pn 5) (pnOctet pn 4) (pnOctet pn 3) (pnOctet pn 2) (pnOctet pn 1) (pnOctet pn 0) = pn := by
  apply BitVec.eq_of_getLsbD_eq
  intro i hi
  simp only [mkPn, pnOctet, BitVec.getLsbD_append, BitVec.getLsbD_extractLsb']
  split
  · next h => simp [h]
  split
  · next h h' => simp [show i - 8 < 8 by omega, show 8 + (i - 8) = i by omega]
  split
  · next h h' => simp [show i - 8 - 8 < 8 by omega, show 16 + (i - 8 - 8) = i by omega]
  split
  · next h h' => simp [show i - 8 - 8 - 8 < 8 by omega, show 24 + (i - 8 - 8 - 8) = i by omega]
  split
  · next h h' => simp [show i - 8 - 8 - 8 - 8 < 8 by omega, show 32 + (i - 8 - 8 - 8 - 8) = i by omega]
  · simp [show i - 8 - 8 - 8 - 8 - 8 < 8 by omega, show 40 + (i - 8 - 8 - 8 - 8 - 8) = i by omega]

end Sys2Proof
end

