-- ==== Sys2Proof/Laws/Memory.lean ====
section
/-! SUPPORT. What the buffer operations do (20 R60, R61, R65): reading after a write, the canonical form kept by every
operation, and the buffer that holds exactly one string. -/

namespace Sys2Proof.Machine

theorem memRead_memWrite_same (m : Mem) (a : Nat) (v : Octet) : memRead (memWrite m a v) a = some v := by
  induction m with
  | nil => simp [memWrite, memRead]
  | cons c m ih =>
    obtain ⟨x, b⟩ := c
    rcases Nat.lt_trichotomy a x with h | h | h
    · simp [memWrite, memRead, h]
    · simp [memWrite, memRead, h]
    · have h1 : ¬ a < x := by omega
      have h2 : a ≠ x := by omega
      have h3 : x ≠ a := by omega
      simp [memWrite, memRead, h1, h2, h3, ih]

theorem memRead_memWrite_other (m : Mem) (a y : Nat) (v : Octet) (h : y ≠ a) :
    memRead (memWrite m a v) y = memRead m y := by
  induction m with
  | nil => simp [memWrite, memRead, Ne.symm h]
  | cons c m ih =>
    obtain ⟨x, b⟩ := c
    simp only [memWrite]
    split
    · simp [memRead, Ne.symm h]
    · split
      · next heq => subst heq; simp [memRead, Ne.symm h]
      · simp [memRead, ih]

/-- A string write changes exactly the octets of its range (20 R69). -/
theorem memRead_memWriteAll (bs : Octets) (m : Mem) (a y : Nat) :
    memRead (memWriteAll m a bs) y = if a ≤ y ∧ y < a + bs.length then bs[y - a]? else memRead m y := by
  induction bs generalizing m a with
  | nil =>
    simp [memWriteAll]
  | cons b bs ih =>
    rw [memWriteAll, ih]
    rcases Nat.lt_trichotomy y a with h | h | h
    · have h1 : ¬ (a + 1 ≤ y ∧ y < a + 1 + bs.length) := by omega
      have h2 : ¬ (a ≤ y ∧ y < a + (b :: bs).length) := by simp; omega
      rw [if_neg h1, if_neg h2, memRead_memWrite_other _ _ _ _ (by omega)]
    · subst h
      have h1 : ¬ (y + 1 ≤ y ∧ y < y + 1 + bs.length) := by omega
      simp [memRead_memWrite_same]
    · by_cases hl : y < a + 1 + bs.length
      · have h2 : a ≤ y ∧ y < a + (b :: bs).length := by simp; omega
        rw [if_pos ⟨h, hl⟩, if_pos h2, show y - a = (y - (a + 1)) + 1 by omega]
        simp
      · have h2 : ¬ (a ≤ y ∧ y < a + (b :: bs).length) := by simp; omega
        rw [if_neg (by omega), if_neg h2, memRead_memWrite_other _ _ _ _ (by omega)]

theorem memRising_mono {m : Mem} {lo lo' : Nat} (h : memRising lo m = true) (hl : lo' ≤ lo) : memRising lo' m = true := by
  cases m with
  | nil => rfl
  | cons c m =>
    simp only [memRising, Bool.and_eq_true, decide_eq_true_eq] at h ⊢
    exact ⟨by omega, h.2⟩

theorem memWrite_rising (m : Mem) (lo a : Nat) (v : Octet) (h : memRising lo m = true) (ha : lo ≤ a) :
    memRising lo (memWrite m a v) = true := by
  induction m generalizing lo with
  | nil => simp [memWrite, memRising, ha]
  | cons c m ih =>
    obtain ⟨x, b⟩ := c
    simp only [memRising, Bool.and_eq_true, decide_eq_true_eq] at h
    simp only [memWrite]
    split
    · simp only [memRising, Bool.and_eq_true, decide_eq_true_eq]
      exact ⟨ha, by omega, h.2⟩
    · split
      · next heq =>
        subst heq
        simp only [memRising, Bool.and_eq_true, decide_eq_true_eq]
        exact ⟨ha, h.2⟩
      · simp only [memRising, Bool.and_eq_true, decide_eq_true_eq]
        exact ⟨h.1, ih _ h.2 (by omega)⟩

/-- A write keeps the canonical form. -/
theorem memWrite_wf {m : Mem} (a : Nat) (v : Octet) (h : Memory.wf m = true) : Memory.wf (memWrite m a v) = true :=
  memWrite_rising m 0 a v h (Nat.zero_le a)

/-- A string write keeps the canonical form. -/
theorem memWriteAll_wf (bs : Octets) {m : Mem} (a : Nat) (h : Memory.wf m = true) :
    Memory.wf (memWriteAll m a bs) = true := by
  induction bs generalizing m a with
  | nil => exact h
  | cons b bs ih => exact ih (a + 1) (memWrite_wf a b h)

theorem memWrite_below {cap : Nat} (m : Mem) (a : Nat) (v : Octet) (h : memBelow cap m = true) (ha : a < cap) :
    memBelow cap (memWrite m a v) = true := by
  induction m with
  | nil => simpa [memWrite, memBelow] using ha
  | cons c m ih =>
    obtain ⟨x, b⟩ := c
    simp only [memBelow, List.all_cons, Bool.and_eq_true, decide_eq_true_eq] at h ih ⊢
    simp only [memWrite]
    split
    · simp only [List.all_cons, Bool.and_eq_true, decide_eq_true_eq]
      exact ⟨ha, h.1, h.2⟩
    · split
      · simp only [List.all_cons, Bool.and_eq_true, decide_eq_true_eq]
        exact ⟨ha, h.2⟩
      · simp only [List.all_cons, Bool.and_eq_true, decide_eq_true_eq]
        exact ⟨h.1, ih h.2⟩

theorem memWriteAll_below {cap : Nat} (bs : Octets) {m : Mem} (a : Nat) (h : memBelow cap m = true)
    (ha : a + bs.length ≤ cap) : memBelow cap (memWriteAll m a bs) = true := by
  induction bs generalizing m a with
  | nil => exact h
  | cons b bs ih =>
    simp only [List.length_cons] at ha
    exact ih (a + 1) (memWrite_below m a b h (by omega)) (by omega)

/-- The buffer that holds one string reads that string and nothing else. -/
theorem memRead_memOf (bs : Octets) (a y : Nat) :
    memRead (memOf a bs) y = if a ≤ y ∧ y < a + bs.length then bs[y - a]? else none := by
  induction bs generalizing a with
  | nil => simp [memOf, memRead]
  | cons b bs ih =>
    simp only [memOf, memRead, ih]
    rcases Nat.lt_trichotomy y a with h | h | h
    · rw [if_neg (by omega), if_neg (by omega), if_neg (by omega)]
    · subst h; simp
    · rw [if_neg (by omega)]
      by_cases hl : y < a + 1 + bs.length
      · rw [if_pos ⟨h, hl⟩, if_pos (by simp; omega), show y - a = (y - (a + 1)) + 1 by omega]
        simp
      · rw [if_neg (by omega), if_neg (by simp; omega)]

theorem memOf_rising (bs : Octets) (a : Nat) : memRising a (memOf a bs) = true := by
  induction bs generalizing a with
  | nil => rfl
  | cons b bs ih => simp [memOf, memRising, ih]

theorem memOf_wf (bs : Octets) (a : Nat) : Memory.wf (memOf a bs) = true := memRising_mono (memOf_rising bs a) (Nat.zero_le a)

theorem memOf_below (bs : Octets) (a cap : Nat) (h : a + bs.length ≤ cap) : memBelow cap (memOf a bs) = true := by
  induction bs generalizing a with
  | nil => rfl
  | cons b bs ih =>
    simp only [List.length_cons] at h
    simp only [memOf, memBelow, List.all_cons, Bool.and_eq_true, decide_eq_true_eq]
    exact ⟨by omega, ih (a + 1) (by omega)⟩

/-- A read of `n` octets is the string of the single reads. -/
theorem memReadAll_eq_some {m : Mem} {a n : Nat} {bs : Octets} :
    memReadAll m a n = some bs ↔ bs.length = n ∧ ∀ i, i < n → memRead m (a + i) = bs[i]? := by
  induction n generalizing a bs with
  | zero =>
    simp only [memReadAll, Option.some.injEq]
    constructor
    · rintro rfl; simp
    · rintro ⟨h, -⟩; exact (List.eq_nil_of_length_eq_zero h).symm
  | succ n ih =>
    simp only [memReadAll]
    constructor
    · intro h
      split at h
      · next b bs' hb hbs =>
        cases h
        obtain ⟨hl, hr⟩ := ih.mp hbs
        refine ⟨by simp [hl], fun i hi => ?_⟩
        cases i with
        | zero => simpa using hb
        | succ i => simpa [Nat.add_assoc, Nat.add_comm 1 i] using hr i (by omega)
      · cases h
    · rintro ⟨hl, hr⟩
      cases bs with
      | nil => simp at hl
      | cons b bs =>
        have h0 : memRead m a = some b := by simpa using hr 0 (by omega)
        have h1 : memReadAll m (a + 1) n = some bs := ih.mpr ⟨by simpa using hl, fun i hi => by
          have := hr (i + 1) (by omega)
          simpa [Nat.add_assoc, Nat.add_comm 1 i] using this⟩
        simp [h0, h1]

theorem memReadAll_length {m : Mem} {a n : Nat} {bs : Octets} (h : memReadAll m a n = some bs) : bs.length = n :=
  (memReadAll_eq_some.mp h).1

theorem memReadAll_memOf (bs : Octets) : memReadAll (memOf 0 bs) 0 bs.length = some bs :=
  memReadAll_eq_some.mpr ⟨rfl, fun i hi => by simp [memRead_memOf, hi]⟩

/-- The frame a command works on has `INLEN` octets (20 R60). -/
theorem frame_length {s : State} {F : Octets} (h : s.frame = some F) : F.length = s.inlen.toNat := memReadAll_length h

end Sys2Proof.Machine
end

