-- ==== Sys2Proof/Laws/State.lean ====
section
/-! SUPPORT. One lemma per field per update of the state, true by definition, so that no later proof unfolds a record
update. -/

namespace Sys2Proof.Machine

variable (s : State)

@[simp] theorem State.setSlot_opr (n : Nat) (k : KeySlot) : (s.setSlot n k).opr = s.opr := rfl
@[simp] theorem State.setSlot_code (n : Nat) (k : KeySlot) : (s.setSlot n k).code = s.code := rfl
@[simp] theorem State.setSlot_outValid (n : Nat) (k : KeySlot) : (s.setSlot n k).outValid = s.outValid := rfl
@[simp] theorem State.setSlot_inlen (n : Nat) (k : KeySlot) : (s.setSlot n k).inlen = s.inlen := rfl
@[simp] theorem State.setSlot_outlen (n : Nat) (k : KeySlot) : (s.setSlot n k).outlen = s.outlen := rfl
@[simp] theorem State.setSlot_ifflags (n : Nat) (k : KeySlot) : (s.setSlot n k).ifflags = s.ifflags := rfl
@[simp] theorem State.setSlot_opmode (n : Nat) (k : KeySlot) : (s.setSlot n k).opmode = s.opmode := rfl
@[simp] theorem State.setSlot_micfailTick (n : Nat) (k : KeySlot) : (s.setSlot n k).micfailTick = s.micfailTick := rfl
@[simp] theorem State.setSlot_micfailTsc (n : Nat) (k : KeySlot) : (s.setSlot n k).micfailTsc = s.micfailTsc := rfl
@[simp] theorem State.setSlot_micfailSeen (n : Nat) (k : KeySlot) : (s.setSlot n k).micfailSeen = s.micfailSeen := rfl
@[simp] theorem State.setSlot_slotsel (n : Nat) (k : KeySlot) : (s.setSlot n k).slotsel = s.slotsel := rfl
@[simp] theorem State.setSlot_tidsel (n : Nat) (k : KeySlot) : (s.setSlot n k).tidsel = s.tidsel := rfl
@[simp] theorem State.setSlot_keys (n : Nat) (k : KeySlot) : (s.setSlot n k).keys = s.keys.set n k := rfl
@[simp] theorem State.setSlot_inbuf (n : Nat) (k : KeySlot) : (s.setSlot n k).inbuf = s.inbuf := rfl
@[simp] theorem State.setSlot_outbuf (n : Nat) (k : KeySlot) : (s.setSlot n k).outbuf = s.outbuf := rfl
@[simp] theorem State.setSlot_evtq (n : Nat) (k : KeySlot) : (s.setSlot n k).evtq = s.evtq := rfl
@[simp] theorem State.setSlot_ticks (n : Nat) (k : KeySlot) : (s.setSlot n k).ticks = s.ticks := rfl
@[simp] theorem State.setSlot_allocFail (n : Nat) (k : KeySlot) : (s.setSlot n k).allocFail = s.allocFail := rfl
@[simp] theorem State.setSlot_cfg (n : Nat) (k : KeySlot) : (s.setSlot n k).cfg = s.cfg := rfl
@[simp] theorem State.setSlot_host (n : Nat) (k : KeySlot) : (s.setSlot n k).host = s.host := rfl
@[simp] theorem State.setSlot_rdata (n : Nat) (k : KeySlot) : (s.setSlot n k).rdata = s.rdata := rfl
@[simp] theorem State.setSlot_freeCount (n : Nat) (k : KeySlot) : (s.setSlot n k).freeCount = s.freeCount := rfl

@[simp] theorem State.setCode_opr (c : Status) : (s.setCode c).opr = s.opr := rfl
@[simp] theorem State.setCode_code (c : Status) : (s.setCode c).code = c := rfl
@[simp] theorem State.setCode_outValid (c : Status) : (s.setCode c).outValid = s.outValid := rfl
@[simp] theorem State.setCode_inlen (c : Status) : (s.setCode c).inlen = s.inlen := rfl
@[simp] theorem State.setCode_outlen (c : Status) : (s.setCode c).outlen = s.outlen := rfl
@[simp] theorem State.setCode_ifflags (c : Status) : (s.setCode c).ifflags = s.ifflags := rfl
@[simp] theorem State.setCode_opmode (c : Status) : (s.setCode c).opmode = s.opmode := rfl
@[simp] theorem State.setCode_micfailTick (c : Status) : (s.setCode c).micfailTick = s.micfailTick := rfl
@[simp] theorem State.setCode_micfailTsc (c : Status) : (s.setCode c).micfailTsc = s.micfailTsc := rfl
@[simp] theorem State.setCode_micfailSeen (c : Status) : (s.setCode c).micfailSeen = s.micfailSeen := rfl
@[simp] theorem State.setCode_slotsel (c : Status) : (s.setCode c).slotsel = s.slotsel := rfl
@[simp] theorem State.setCode_tidsel (c : Status) : (s.setCode c).tidsel = s.tidsel := rfl
@[simp] theorem State.setCode_keys (c : Status) : (s.setCode c).keys = s.keys := rfl
@[simp] theorem State.setCode_inbuf (c : Status) : (s.setCode c).inbuf = s.inbuf := rfl
@[simp] theorem State.setCode_outbuf (c : Status) : (s.setCode c).outbuf = s.outbuf := rfl
@[simp] theorem State.setCode_evtq (c : Status) : (s.setCode c).evtq = s.evtq := rfl
@[simp] theorem State.setCode_ticks (c : Status) : (s.setCode c).ticks = s.ticks := rfl
@[simp] theorem State.setCode_allocFail (c : Status) : (s.setCode c).allocFail = s.allocFail := rfl
@[simp] theorem State.setCode_cfg (c : Status) : (s.setCode c).cfg = s.cfg := rfl
@[simp] theorem State.setCode_host (c : Status) : (s.setCode c).host = s.host := rfl
@[simp] theorem State.setCode_rdata (c : Status) : (s.setCode c).rdata = s.rdata := rfl
@[simp] theorem State.setCode_freeCount (c : Status) : (s.setCode c).freeCount = s.freeCount := rfl

@[simp] theorem State.raise_frame_opr (c : Status) : (s.raise .frame c).opr = s.opr := rfl
@[simp] theorem State.raise_frame_code (c : Status) : (s.raise .frame c).code = c := rfl
@[simp] theorem State.raise_frame_outValid (c : Status) : (s.raise .frame c).outValid = false := rfl
@[simp] theorem State.raise_frame_inlen (c : Status) : (s.raise .frame c).inlen = 0 := rfl
@[simp] theorem State.raise_frame_outlen (c : Status) : (s.raise .frame c).outlen = 0 := rfl
@[simp] theorem State.raise_frame_ifflags (c : Status) : (s.raise .frame c).ifflags = s.ifflags := rfl
@[simp] theorem State.raise_frame_opmode (c : Status) : (s.raise .frame c).opmode = s.opmode := rfl
@[simp] theorem State.raise_frame_micfailTick (c : Status) : (s.raise .frame c).micfailTick = s.micfailTick := rfl
@[simp] theorem State.raise_frame_micfailTsc (c : Status) : (s.raise .frame c).micfailTsc = s.micfailTsc := rfl
@[simp] theorem State.raise_frame_micfailSeen (c : Status) : (s.raise .frame c).micfailSeen = s.micfailSeen := rfl
@[simp] theorem State.raise_frame_slotsel (c : Status) : (s.raise .frame c).slotsel = s.slotsel := rfl
@[simp] theorem State.raise_frame_tidsel (c : Status) : (s.raise .frame c).tidsel = s.tidsel := rfl
@[simp] theorem State.raise_frame_keys (c : Status) : (s.raise .frame c).keys = s.keys := rfl
@[simp] theorem State.raise_frame_inbuf (c : Status) : (s.raise .frame c).inbuf = s.inbuf := rfl
@[simp] theorem State.raise_frame_outbuf (c : Status) : (s.raise .frame c).outbuf = [] := rfl
@[simp] theorem State.raise_frame_evtq (c : Status) : (s.raise .frame c).evtq = s.evtq := rfl
@[simp] theorem State.raise_frame_ticks (c : Status) : (s.raise .frame c).ticks = s.ticks := rfl
@[simp] theorem State.raise_frame_allocFail (c : Status) : (s.raise .frame c).allocFail = s.allocFail := rfl
@[simp] theorem State.raise_frame_cfg (c : Status) : (s.raise .frame c).cfg = s.cfg := rfl
@[simp] theorem State.raise_frame_host (c : Status) : (s.raise .frame c).host = s.host := rfl
@[simp] theorem State.raise_frame_rdata (c : Status) : (s.raise .frame c).rdata = s.rdata := rfl
@[simp] theorem State.raise_frame_freeCount (c : Status) : (s.raise .frame c).freeCount = s.freeCount := rfl

@[simp] theorem State.raise_other_opr (c : Status) : (s.raise .other c).opr = s.opr := rfl
@[simp] theorem State.raise_other_code (c : Status) : (s.raise .other c).code = c := rfl
@[simp] theorem State.raise_other_outValid (c : Status) : (s.raise .other c).outValid = s.outValid := rfl
@[simp] theorem State.raise_other_inlen (c : Status) : (s.raise .other c).inlen = s.inlen := rfl
@[simp] theorem State.raise_other_outlen (c : Status) : (s.raise .other c).outlen = s.outlen := rfl
@[simp] theorem State.raise_other_ifflags (c : Status) : (s.raise .other c).ifflags = s.ifflags := rfl
@[simp] theorem State.raise_other_opmode (c : Status) : (s.raise .other c).opmode = s.opmode := rfl
@[simp] theorem State.raise_other_micfailTick (c : Status) : (s.raise .other c).micfailTick = s.micfailTick := rfl
@[simp] theorem State.raise_other_micfailTsc (c : Status) : (s.raise .other c).micfailTsc = s.micfailTsc := rfl
@[simp] theorem State.raise_other_micfailSeen (c : Status) : (s.raise .other c).micfailSeen = s.micfailSeen := rfl
@[simp] theorem State.raise_other_slotsel (c : Status) : (s.raise .other c).slotsel = s.slotsel := rfl
@[simp] theorem State.raise_other_tidsel (c : Status) : (s.raise .other c).tidsel = s.tidsel := rfl
@[simp] theorem State.raise_other_keys (c : Status) : (s.raise .other c).keys = s.keys := rfl
@[simp] theorem State.raise_other_inbuf (c : Status) : (s.raise .other c).inbuf = s.inbuf := rfl
@[simp] theorem State.raise_other_outbuf (c : Status) : (s.raise .other c).outbuf = s.outbuf := rfl
@[simp] theorem State.raise_other_evtq (c : Status) : (s.raise .other c).evtq = s.evtq := rfl
@[simp] theorem State.raise_other_ticks (c : Status) : (s.raise .other c).ticks = s.ticks := rfl
@[simp] theorem State.raise_other_allocFail (c : Status) : (s.raise .other c).allocFail = s.allocFail := rfl
@[simp] theorem State.raise_other_cfg (c : Status) : (s.raise .other c).cfg = s.cfg := rfl
@[simp] theorem State.raise_other_host (c : Status) : (s.raise .other c).host = s.host := rfl
@[simp] theorem State.raise_other_rdata (c : Status) : (s.raise .other c).rdata = s.rdata := rfl
@[simp] theorem State.raise_other_freeCount (c : Status) : (s.raise .other c).freeCount = s.freeCount := rfl

@[simp] theorem State.illegal_opr : (s.illegal).opr = s.opr := rfl
@[simp] theorem State.illegal_code : (s.illegal).code = .illegalCmd := rfl
@[simp] theorem State.illegal_outValid : (s.illegal).outValid = s.outValid := rfl
@[simp] theorem State.illegal_inlen : (s.illegal).inlen = s.inlen := rfl
@[simp] theorem State.illegal_outlen : (s.illegal).outlen = s.outlen := rfl
@[simp] theorem State.illegal_ifflags : (s.illegal).ifflags = s.ifflags := rfl
@[simp] theorem State.illegal_opmode : (s.illegal).opmode = s.opmode := rfl
@[simp] theorem State.illegal_micfailTick : (s.illegal).micfailTick = s.micfailTick := rfl
@[simp] theorem State.illegal_micfailTsc : (s.illegal).micfailTsc = s.micfailTsc := rfl
@[simp] theorem State.illegal_micfailSeen : (s.illegal).micfailSeen = s.micfailSeen := rfl
@[simp] theorem State.illegal_slotsel : (s.illegal).slotsel = s.slotsel := rfl
@[simp] theorem State.illegal_tidsel : (s.illegal).tidsel = s.tidsel := rfl
@[simp] theorem State.illegal_keys : (s.illegal).keys = s.keys := rfl
@[simp] theorem State.illegal_inbuf : (s.illegal).inbuf = s.inbuf := rfl
@[simp] theorem State.illegal_outbuf : (s.illegal).outbuf = s.outbuf := rfl
@[simp] theorem State.illegal_evtq : (s.illegal).evtq = s.evtq := rfl
@[simp] theorem State.illegal_ticks : (s.illegal).ticks = s.ticks := rfl
@[simp] theorem State.illegal_allocFail : (s.illegal).allocFail = s.allocFail := rfl
@[simp] theorem State.illegal_cfg : (s.illegal).cfg = s.cfg := rfl
@[simp] theorem State.illegal_host : (s.illegal).host = s.host := rfl
@[simp] theorem State.illegal_rdata : (s.illegal).rdata = s.rdata := rfl
@[simp] theorem State.illegal_freeCount : (s.illegal).freeCount = s.freeCount := rfl

@[simp] theorem State.deliver_opr (out : Octets) : (s.deliver out).opr = s.opr := rfl
@[simp] theorem State.deliver_code (out : Octets) : (s.deliver out).code = .ok := rfl
@[simp] theorem State.deliver_outValid (out : Octets) : (s.deliver out).outValid = true := rfl
@[simp] theorem State.deliver_inlen (out : Octets) : (s.deliver out).inlen = 0 := rfl
@[simp] theorem State.deliver_outlen (out : Octets) : (s.deliver out).outlen = BitVec.ofNat 16 out.length := rfl
@[simp] theorem State.deliver_ifflags (out : Octets) : (s.deliver out).ifflags = s.ifflags := rfl
@[simp] theorem State.deliver_opmode (out : Octets) : (s.deliver out).opmode = s.opmode := rfl
@[simp] theorem State.deliver_micfailTick (out : Octets) : (s.deliver out).micfailTick = s.micfailTick := rfl
@[simp] theorem State.deliver_micfailTsc (out : Octets) : (s.deliver out).micfailTsc = s.micfailTsc := rfl
@[simp] theorem State.deliver_micfailSeen (out : Octets) : (s.deliver out).micfailSeen = s.micfailSeen := rfl
@[simp] theorem State.deliver_slotsel (out : Octets) : (s.deliver out).slotsel = s.slotsel := rfl
@[simp] theorem State.deliver_tidsel (out : Octets) : (s.deliver out).tidsel = s.tidsel := rfl
@[simp] theorem State.deliver_keys (out : Octets) : (s.deliver out).keys = s.keys := rfl
@[simp] theorem State.deliver_inbuf (out : Octets) : (s.deliver out).inbuf = s.inbuf := rfl
@[simp] theorem State.deliver_outbuf (out : Octets) : (s.deliver out).outbuf = memOf 0 out := rfl
@[simp] theorem State.deliver_evtq (out : Octets) : (s.deliver out).evtq = s.evtq := rfl
@[simp] theorem State.deliver_ticks (out : Octets) : (s.deliver out).ticks = s.ticks := rfl
@[simp] theorem State.deliver_allocFail (out : Octets) : (s.deliver out).allocFail = s.allocFail := rfl
@[simp] theorem State.deliver_cfg (out : Octets) : (s.deliver out).cfg = s.cfg := rfl
@[simp] theorem State.deliver_host (out : Octets) : (s.deliver out).host = s.host := rfl
@[simp] theorem State.deliver_rdata (out : Octets) : (s.deliver out).rdata = s.rdata := rfl
@[simp] theorem State.deliver_freeCount (out : Octets) : (s.deliver out).freeCount = s.freeCount := rfl

@[simp] theorem State.setMicout_opr (v : Octets) : (s.setMicout v).opr = (s.opr.set 14 (le32 v 0)).set 15 (le32 v 4) := rfl
@[simp] theorem State.setMicout_code (v : Octets) : (s.setMicout v).code = s.code := rfl
@[simp] theorem State.setMicout_outValid (v : Octets) : (s.setMicout v).outValid = s.outValid := rfl
@[simp] theorem State.setMicout_inlen (v : Octets) : (s.setMicout v).inlen = s.inlen := rfl
@[simp] theorem State.setMicout_outlen (v : Octets) : (s.setMicout v).outlen = s.outlen := rfl
@[simp] theorem State.setMicout_ifflags (v : Octets) : (s.setMicout v).ifflags = s.ifflags := rfl
@[simp] theorem State.setMicout_opmode (v : Octets) : (s.setMicout v).opmode = s.opmode := rfl
@[simp] theorem State.setMicout_micfailTick (v : Octets) : (s.setMicout v).micfailTick = s.micfailTick := rfl
@[simp] theorem State.setMicout_micfailTsc (v : Octets) : (s.setMicout v).micfailTsc = s.micfailTsc := rfl
@[simp] theorem State.setMicout_micfailSeen (v : Octets) : (s.setMicout v).micfailSeen = s.micfailSeen := rfl
@[simp] theorem State.setMicout_slotsel (v : Octets) : (s.setMicout v).slotsel = s.slotsel := rfl
@[simp] theorem State.setMicout_tidsel (v : Octets) : (s.setMicout v).tidsel = s.tidsel := rfl
@[simp] theorem State.setMicout_keys (v : Octets) : (s.setMicout v).keys = s.keys := rfl
@[simp] theorem State.setMicout_inbuf (v : Octets) : (s.setMicout v).inbuf = s.inbuf := rfl
@[simp] theorem State.setMicout_outbuf (v : Octets) : (s.setMicout v).outbuf = s.outbuf := rfl
@[simp] theorem State.setMicout_evtq (v : Octets) : (s.setMicout v).evtq = s.evtq := rfl
@[simp] theorem State.setMicout_ticks (v : Octets) : (s.setMicout v).ticks = s.ticks := rfl
@[simp] theorem State.setMicout_allocFail (v : Octets) : (s.setMicout v).allocFail = s.allocFail := rfl
@[simp] theorem State.setMicout_cfg (v : Octets) : (s.setMicout v).cfg = s.cfg := rfl
@[simp] theorem State.setMicout_host (v : Octets) : (s.setMicout v).host = s.host := rfl
@[simp] theorem State.setMicout_rdata (v : Octets) : (s.setMicout v).rdata = s.rdata := rfl
@[simp] theorem State.setMicout_freeCount (v : Octets) : (s.setMicout v).freeCount = s.freeCount := rfl

@[simp] theorem State.setCountermeasures_opr : (s.setCountermeasures).opr = s.opr := rfl
@[simp] theorem State.setCountermeasures_code : (s.setCountermeasures).code = s.code := rfl
@[simp] theorem State.setCountermeasures_outValid : (s.setCountermeasures).outValid = s.outValid := rfl
@[simp] theorem State.setCountermeasures_inlen : (s.setCountermeasures).inlen = s.inlen := rfl
@[simp] theorem State.setCountermeasures_outlen : (s.setCountermeasures).outlen = s.outlen := rfl
@[simp] theorem State.setCountermeasures_ifflags : (s.setCountermeasures).ifflags = s.ifflags ||| 1 := rfl
@[simp] theorem State.setCountermeasures_opmode : (s.setCountermeasures).opmode = s.opmode := rfl
@[simp] theorem State.setCountermeasures_micfailTick : (s.setCountermeasures).micfailTick = s.micfailTick := rfl
@[simp] theorem State.setCountermeasures_micfailTsc : (s.setCountermeasures).micfailTsc = s.micfailTsc := rfl
@[simp] theorem State.setCountermeasures_micfailSeen : (s.setCountermeasures).micfailSeen = s.micfailSeen := rfl
@[simp] theorem State.setCountermeasures_slotsel : (s.setCountermeasures).slotsel = s.slotsel := rfl
@[simp] theorem State.setCountermeasures_tidsel : (s.setCountermeasures).tidsel = s.tidsel := rfl
@[simp] theorem State.setCountermeasures_keys : (s.setCountermeasures).keys = s.keys := rfl
@[simp] theorem State.setCountermeasures_inbuf : (s.setCountermeasures).inbuf = s.inbuf := rfl
@[simp] theorem State.setCountermeasures_outbuf : (s.setCountermeasures).outbuf = s.outbuf := rfl
@[simp] theorem State.setCountermeasures_evtq : (s.setCountermeasures).evtq = s.evtq := rfl
@[simp] theorem State.setCountermeasures_ticks : (s.setCountermeasures).ticks = s.ticks := rfl
@[simp] theorem State.setCountermeasures_allocFail : (s.setCountermeasures).allocFail = s.allocFail := rfl
@[simp] theorem State.setCountermeasures_cfg : (s.setCountermeasures).cfg = s.cfg := rfl
@[simp] theorem State.setCountermeasures_host : (s.setCountermeasures).host = s.host := rfl
@[simp] theorem State.setCountermeasures_rdata : (s.setCountermeasures).rdata = s.rdata := rfl
@[simp] theorem State.setCountermeasures_freeCount : (s.setCountermeasures).freeCount = s.freeCount := rfl

@[simp] theorem State.recordFailure_opr (t : BitVec 48) : (s.recordFailure t).opr = s.opr := rfl
@[simp] theorem State.recordFailure_code (t : BitVec 48) : (s.recordFailure t).code = s.code := rfl
@[simp] theorem State.recordFailure_outValid (t : BitVec 48) : (s.recordFailure t).outValid = s.outValid := rfl
@[simp] theorem State.recordFailure_inlen (t : BitVec 48) : (s.recordFailure t).inlen = s.inlen := rfl
@[simp] theorem State.recordFailure_outlen (t : BitVec 48) : (s.recordFailure t).outlen = s.outlen := rfl
@[simp] theorem State.recordFailure_ifflags (t : BitVec 48) : (s.recordFailure t).ifflags = s.ifflags := rfl
@[simp] theorem State.recordFailure_opmode (t : BitVec 48) : (s.recordFailure t).opmode = s.opmode := rfl
@[simp] theorem State.recordFailure_micfailTick (t : BitVec 48) : (s.recordFailure t).micfailTick = s.ticks := rfl
@[simp] theorem State.recordFailure_micfailTsc (t : BitVec 48) : (s.recordFailure t).micfailTsc = t := rfl
@[simp] theorem State.recordFailure_micfailSeen (t : BitVec 48) : (s.recordFailure t).micfailSeen = true := rfl
@[simp] theorem State.recordFailure_slotsel (t : BitVec 48) : (s.recordFailure t).slotsel = s.slotsel := rfl
@[simp] theorem State.recordFailure_tidsel (t : BitVec 48) : (s.recordFailure t).tidsel = s.tidsel := rfl
@[simp] theorem State.recordFailure_keys (t : BitVec 48) : (s.recordFailure t).keys = s.keys := rfl
@[simp] theorem State.recordFailure_inbuf (t : BitVec 48) : (s.recordFailure t).inbuf = s.inbuf := rfl
@[simp] theorem State.recordFailure_outbuf (t : BitVec 48) : (s.recordFailure t).outbuf = s.outbuf := rfl
@[simp] theorem State.recordFailure_evtq (t : BitVec 48) : (s.recordFailure t).evtq = s.evtq := rfl
@[simp] theorem State.recordFailure_ticks (t : BitVec 48) : (s.recordFailure t).ticks = s.ticks := rfl
@[simp] theorem State.recordFailure_allocFail (t : BitVec 48) : (s.recordFailure t).allocFail = s.allocFail := rfl
@[simp] theorem State.recordFailure_cfg (t : BitVec 48) : (s.recordFailure t).cfg = s.cfg := rfl
@[simp] theorem State.recordFailure_host (t : BitVec 48) : (s.recordFailure t).host = s.host := rfl
@[simp] theorem State.recordFailure_rdata (t : BitVec 48) : (s.recordFailure t).rdata = s.rdata := rfl
@[simp] theorem State.recordFailure_freeCount (t : BitVec 48) : (s.recordFailure t).freeCount = s.freeCount := rfl

@[simp] theorem State.drawFree_opr : (s.drawFree).opr = s.opr := rfl
@[simp] theorem State.drawFree_code : (s.drawFree).code = s.code := rfl
@[simp] theorem State.drawFree_outValid : (s.drawFree).outValid = s.outValid := rfl
@[simp] theorem State.drawFree_inlen : (s.drawFree).inlen = s.inlen := rfl
@[simp] theorem State.drawFree_outlen : (s.drawFree).outlen = s.outlen := rfl
@[simp] theorem State.drawFree_ifflags : (s.drawFree).ifflags = s.ifflags := rfl
@[simp] theorem State.drawFree_opmode : (s.drawFree).opmode = s.opmode := rfl
@[simp] theorem State.drawFree_micfailTick : (s.drawFree).micfailTick = s.micfailTick := rfl
@[simp] theorem State.drawFree_micfailTsc : (s.drawFree).micfailTsc = s.micfailTsc := rfl
@[simp] theorem State.drawFree_micfailSeen : (s.drawFree).micfailSeen = s.micfailSeen := rfl
@[simp] theorem State.drawFree_slotsel : (s.drawFree).slotsel = s.slotsel := rfl
@[simp] theorem State.drawFree_tidsel : (s.drawFree).tidsel = s.tidsel := rfl
@[simp] theorem State.drawFree_keys : (s.drawFree).keys = s.keys := rfl
@[simp] theorem State.drawFree_inbuf : (s.drawFree).inbuf = s.inbuf := rfl
@[simp] theorem State.drawFree_outbuf : (s.drawFree).outbuf = s.outbuf := rfl
@[simp] theorem State.drawFree_evtq : (s.drawFree).evtq = s.evtq := rfl
@[simp] theorem State.drawFree_ticks : (s.drawFree).ticks = s.ticks := rfl
@[simp] theorem State.drawFree_allocFail : (s.drawFree).allocFail = s.allocFail := rfl
@[simp] theorem State.drawFree_cfg : (s.drawFree).cfg = s.cfg := rfl
@[simp] theorem State.drawFree_host : (s.drawFree).host = s.host := rfl
@[simp] theorem State.drawFree_rdata : (s.drawFree).rdata = s.rdata := rfl
@[simp] theorem State.drawFree_freeCount : (s.drawFree).freeCount = s.freeCount + 1 := rfl

@[simp] theorem State.popEvent_opr : (s.popEvent).opr = s.opr := rfl
@[simp] theorem State.popEvent_code : (s.popEvent).code = s.code := rfl
@[simp] theorem State.popEvent_outValid : (s.popEvent).outValid = s.outValid := rfl
@[simp] theorem State.popEvent_inlen : (s.popEvent).inlen = s.inlen := rfl
@[simp] theorem State.popEvent_outlen : (s.popEvent).outlen = s.outlen := rfl
@[simp] theorem State.popEvent_ifflags : (s.popEvent).ifflags = s.ifflags := rfl
@[simp] theorem State.popEvent_opmode : (s.popEvent).opmode = s.opmode := rfl
@[simp] theorem State.popEvent_micfailTick : (s.popEvent).micfailTick = s.micfailTick := rfl
@[simp] theorem State.popEvent_micfailTsc : (s.popEvent).micfailTsc = s.micfailTsc := rfl
@[simp] theorem State.popEvent_micfailSeen : (s.popEvent).micfailSeen = s.micfailSeen := rfl
@[simp] theorem State.popEvent_slotsel : (s.popEvent).slotsel = s.slotsel := rfl
@[simp] theorem State.popEvent_tidsel : (s.popEvent).tidsel = s.tidsel := rfl
@[simp] theorem State.popEvent_keys : (s.popEvent).keys = s.keys := rfl
@[simp] theorem State.popEvent_inbuf : (s.popEvent).inbuf = s.inbuf := rfl
@[simp] theorem State.popEvent_outbuf : (s.popEvent).outbuf = s.outbuf := rfl
@[simp] theorem State.popEvent_evtq : (s.popEvent).evtq = s.evtq.tail := rfl
@[simp] theorem State.popEvent_ticks : (s.popEvent).ticks = s.ticks := rfl
@[simp] theorem State.popEvent_allocFail : (s.popEvent).allocFail = s.allocFail := rfl
@[simp] theorem State.popEvent_cfg : (s.popEvent).cfg = s.cfg := rfl
@[simp] theorem State.popEvent_host : (s.popEvent).host = s.host := rfl
@[simp] theorem State.popEvent_rdata : (s.popEvent).rdata = s.rdata := rfl
@[simp] theorem State.popEvent_freeCount : (s.popEvent).freeCount = s.freeCount := rfl

@[simp] theorem State.drawOutput_opr (a : Nat) : (s.drawOutput a).opr = s.opr := rfl
@[simp] theorem State.drawOutput_code (a : Nat) : (s.drawOutput a).code = s.code := rfl
@[simp] theorem State.drawOutput_outValid (a : Nat) : (s.drawOutput a).outValid = s.outValid := rfl
@[simp] theorem State.drawOutput_inlen (a : Nat) : (s.drawOutput a).inlen = s.inlen := rfl
@[simp] theorem State.drawOutput_outlen (a : Nat) : (s.drawOutput a).outlen = s.outlen := rfl
@[simp] theorem State.drawOutput_ifflags (a : Nat) : (s.drawOutput a).ifflags = s.ifflags := rfl
@[simp] theorem State.drawOutput_opmode (a : Nat) : (s.drawOutput a).opmode = s.opmode := rfl
@[simp] theorem State.drawOutput_micfailTick (a : Nat) : (s.drawOutput a).micfailTick = s.micfailTick := rfl
@[simp] theorem State.drawOutput_micfailTsc (a : Nat) : (s.drawOutput a).micfailTsc = s.micfailTsc := rfl
@[simp] theorem State.drawOutput_micfailSeen (a : Nat) : (s.drawOutput a).micfailSeen = s.micfailSeen := rfl
@[simp] theorem State.drawOutput_slotsel (a : Nat) : (s.drawOutput a).slotsel = s.slotsel := rfl
@[simp] theorem State.drawOutput_tidsel (a : Nat) : (s.drawOutput a).tidsel = s.tidsel := rfl
@[simp] theorem State.drawOutput_keys (a : Nat) : (s.drawOutput a).keys = s.keys := rfl
@[simp] theorem State.drawOutput_inbuf (a : Nat) : (s.drawOutput a).inbuf = s.inbuf := rfl
@[simp] theorem State.drawOutput_outbuf (a : Nat) : (s.drawOutput a).outbuf = memWrite s.outbuf a (Config.freeOctet s.freeCount) := rfl
@[simp] theorem State.drawOutput_evtq (a : Nat) : (s.drawOutput a).evtq = s.evtq := rfl
@[simp] theorem State.drawOutput_ticks (a : Nat) : (s.drawOutput a).ticks = s.ticks := rfl
@[simp] theorem State.drawOutput_allocFail (a : Nat) : (s.drawOutput a).allocFail = s.allocFail := rfl
@[simp] theorem State.drawOutput_cfg (a : Nat) : (s.drawOutput a).cfg = s.cfg := rfl
@[simp] theorem State.drawOutput_host (a : Nat) : (s.drawOutput a).host = s.host := rfl
@[simp] theorem State.drawOutput_rdata (a : Nat) : (s.drawOutput a).rdata = s.rdata := rfl
@[simp] theorem State.drawOutput_freeCount (a : Nat) : (s.drawOutput a).freeCount = s.freeCount + 1 := rfl

@[simp] theorem State.setRdata_opr (v : BitVec 64) : (s.setRdata v).opr = s.opr := rfl
@[simp] theorem State.setRdata_code (v : BitVec 64) : (s.setRdata v).code = s.code := rfl
@[simp] theorem State.setRdata_outValid (v : BitVec 64) : (s.setRdata v).outValid = s.outValid := rfl
@[simp] theorem State.setRdata_inlen (v : BitVec 64) : (s.setRdata v).inlen = s.inlen := rfl
@[simp] theorem State.setRdata_outlen (v : BitVec 64) : (s.setRdata v).outlen = s.outlen := rfl
@[simp] theorem State.setRdata_ifflags (v : BitVec 64) : (s.setRdata v).ifflags = s.ifflags := rfl
@[simp] theorem State.setRdata_opmode (v : BitVec 64) : (s.setRdata v).opmode = s.opmode := rfl
@[simp] theorem State.setRdata_micfailTick (v : BitVec 64) : (s.setRdata v).micfailTick = s.micfailTick := rfl
@[simp] theorem State.setRdata_micfailTsc (v : BitVec 64) : (s.setRdata v).micfailTsc = s.micfailTsc := rfl
@[simp] theorem State.setRdata_micfailSeen (v : BitVec 64) : (s.setRdata v).micfailSeen = s.micfailSeen := rfl
@[simp] theorem State.setRdata_slotsel (v : BitVec 64) : (s.setRdata v).slotsel = s.slotsel := rfl
@[simp] theorem State.setRdata_tidsel (v : BitVec 64) : (s.setRdata v).tidsel = s.tidsel := rfl
@[simp] theorem State.setRdata_keys (v : BitVec 64) : (s.setRdata v).keys = s.keys := rfl
@[simp] theorem State.setRdata_inbuf (v : BitVec 64) : (s.setRdata v).inbuf = s.inbuf := rfl
@[simp] theorem State.setRdata_outbuf (v : BitVec 64) : (s.setRdata v).outbuf = s.outbuf := rfl
@[simp] theorem State.setRdata_evtq (v : BitVec 64) : (s.setRdata v).evtq = s.evtq := rfl
@[simp] theorem State.setRdata_ticks (v : BitVec 64) : (s.setRdata v).ticks = s.ticks := rfl
@[simp] theorem State.setRdata_allocFail (v : BitVec 64) : (s.setRdata v).allocFail = s.allocFail := rfl
@[simp] theorem State.setRdata_cfg (v : BitVec 64) : (s.setRdata v).cfg = s.cfg := rfl
@[simp] theorem State.setRdata_host (v : BitVec 64) : (s.setRdata v).host = s.host := rfl
@[simp] theorem State.setRdata_rdata (v : BitVec 64) : (s.setRdata v).rdata = v := rfl
@[simp] theorem State.setRdata_freeCount (v : BitVec 64) : (s.setRdata v).freeCount = s.freeCount := rfl

end Sys2Proof.Machine
end

