-- ==== Sys2Proof/Laws/Host.lean ====
section
/-! SUPPORT. What each host access, and so each step, can do. -/

namespace Sys2Proof.Machine

variable {s t : State}

/-- With nothing pending the block is idle. -/
theorem step_idle (h : s.host = []) : step s = .next s := by simp [step, hostStep, h]

/-- A step performs the oldest pending access. -/
theorem step_access {a : HostAccess} {rest : List HostAccess} (h : s.host = a :: rest) :
    step s = hostAccess a { s with host := rest } := by simp [step, hostStep, h]

theorem csrRead_plain {r : Csr} (h : r ≠ .evtPop) : s.csrRead r = s.setRdata (s.csrValue r) := if_neg h

theorem csrRead_evtPop : s.csrRead .evtPop = (s.setRdata (s.csrValue .evtPop)).popEvent := rfl

/-- What a register shows does not depend on what was read before. -/
@[simp] theorem csrValue_setRdata (v : BitVec 64) (r : Csr) : (s.setRdata v).csrValue r = s.csrValue r := by
  cases r <;> rfl

/-- A write to a register that is not `CMD` runs no command. -/
theorem hostAccess_csrWrite {r : Csr} {v : BitVec 64} (h : r ≠ .cmd) :
    hostAccess (.csrWrite r v) s = .next (s.csrWrite r v) := by
  cases r <;> first | exact absurd rfl h | rfl

theorem runWord_next {w : BitVec 32} (h : runWord w s = .next t) :
    (∃ i, decodeFor s.nkeys w = .ok i ∧ exec i s = .next t) ∨
    (∃ e, decodeFor s.nkeys w = .error e ∧ t = s.illegal) := by
  unfold runWord at h
  split at h
  · next i hi => exact .inl ⟨i, hi, h⟩
  · next e he => cases h; exact .inr ⟨e, he, rfl⟩

theorem inbufWrite_next {a : Nat} {bs : Octets} (h : inbufWrite a bs s = .next t) :
    a + bs.length ≤ s.cfg.incap ∧ t = { s with inbuf := memWriteAll s.inbuf a bs } := by
  unfold inbufWrite at h
  split at h
  · cases h
  · next hl => cases h; exact ⟨Nat.le_of_not_lt hl, rfl⟩

theorem inbufRead_next {a : Nat} (h : inbufRead a s = .next t) :
    a < s.cfg.incap ∧ ∃ b, memRead s.inbuf a = some b ∧ t = s.setRdata (b.setWidth 64) := by
  unfold inbufRead at h
  split at h
  · cases h
  next hl =>
  split at h
  · next b hb => cases h; exact ⟨Nat.lt_of_not_le hl, b, hb, rfl⟩
  · cases h

theorem outbufRead_next {a : Nat} (h : outbufRead a s = .next t) :
    a < s.cfg.outcap ∧
    ((∃ b, memRead s.outbuf a = some b ∧ t = s.setRdata (b.setWidth 64)) ∨
     (memRead s.outbuf a = none ∧ t = (s.drawOutput a).setRdata ((Config.freeOctet s.freeCount).setWidth 64))) := by
  unfold outbufRead at h
  split at h
  · cases h
  next hl =>
  split at h
  · next b hb => cases h; exact ⟨Nat.lt_of_not_le hl, .inl ⟨b, hb, rfl⟩⟩
  · next hb => cases h; exact ⟨Nat.lt_of_not_le hl, .inr ⟨hb, rfl⟩⟩

/-- Everything a step that answers a next state can have done; `u` is the state without the access it performed. -/
theorem step_next (h : step s = .next t) :
    (s.host = [] ∧ t = s) ∨ ∃ a rest u, s.host = a :: rest ∧ u = { s with host := rest } ∧
      ((∃ v i, a = .csrWrite .cmd v ∧ decodeFor u.nkeys (v.setWidth 32) = .ok i ∧ exec i u = .next t) ∨
       (∃ v e, a = .csrWrite .cmd v ∧ decodeFor u.nkeys (v.setWidth 32) = .error e ∧ t = u.illegal) ∨
       (∃ r v, a = .csrWrite r v ∧ r ≠ .cmd ∧ t = u.csrWrite r v) ∨
       (∃ r, a = .csrRead r ∧ t = u.csrRead r) ∨
       (∃ i v, a = .oprWrite i v ∧ t = u.oprWrite i v) ∨
       (∃ i, a = .oprRead i ∧ t = u.oprRead i) ∨
       (∃ y bs, a = .inbufWrite y bs ∧ y + bs.length ≤ u.cfg.incap ∧
         t = { u with inbuf := memWriteAll u.inbuf y bs }) ∨
       (∃ y b, a = .inbufRead y ∧ memRead u.inbuf y = some b ∧ t = u.setRdata (b.setWidth 64)) ∨
       (∃ y b, a = .outbufRead y ∧ memRead u.outbuf y = some b ∧ t = u.setRdata (b.setWidth 64)) ∨
       (∃ y, a = .outbufRead y ∧ y < u.cfg.outcap ∧ memRead u.outbuf y = none ∧
         t = (u.drawOutput y).setRdata ((Config.freeOctet u.freeCount).setWidth 64)) ∨
       (∃ n, a = .envTicks n ∧ t = { u with ticks := n }) ∨
       (∃ b, a = .envAllocFail b ∧ t = { u with allocFail := b }) ∨
       (a = .resetEvent ∧ t = u.applyReset)) := by
  cases hh : s.host with
  | nil => rw [step_idle hh] at h; cases h; exact .inl ⟨rfl, rfl⟩
  | cons a rest =>
    rw [step_access hh] at h
    refine .inr ⟨a, rest, _, rfl, rfl, ?_⟩
    generalize ({ s with host := rest } : State) = u at h ⊢
    cases a with
    | csrWrite r v =>
      by_cases hr : r = .cmd
      · subst hr
        rcases runWord_next h with ⟨i, hi, h⟩ | ⟨e, he, h⟩
        · exact .inl ⟨v, i, rfl, hi, h⟩
        · exact .inr (.inl ⟨v, e, rfl, he, h⟩)
      · rw [hostAccess_csrWrite hr] at h
        cases h
        simp [hr]
    | csrRead r => cases h; simp
    | oprWrite i v => cases h; simp
    | oprRead i => cases h; simp
    | inbufWrite y bs => have := inbufWrite_next h; simp [this]
    | inbufRead y => obtain ⟨-, b, hb, e⟩ := inbufRead_next h; simp [hb, e]
    | outbufRead y =>
      obtain ⟨hl, ⟨b, hb, e⟩ | ⟨hb, e⟩⟩ := outbufRead_next h
      · simp [hb, e]
      · simp [hb, e, hl]
    | envTicks n => cases h; simp
    | envAllocFail b => cases h; simp
    | resetEvent => cases h; simp

end Sys2Proof.Machine
end

