-- ==== Sys2Proof/Laws/Ops.lean ====
section
/-! SUPPORT. What each shared operation can do, said once, and one inversion lemma per command. -/

namespace Sys2Proof.Machine

/-! ### Shared operations -/

theorem withSlot_some {n : BitVec 8} {s : State} {f : KeySlot → Result} {k : KeySlot} (h : s.keys[n.toNat]? = some k) :
    withSlot n s f = f k := by simp [withSlot, h]

theorem withSlot_none {n : BitVec 8} {s : State} {f : KeySlot → Result} (h : s.keys[n.toNat]? = none) :
    withSlot n s f = .next s.illegal := by simp [withSlot, h]

/-- `withSlot` runs its continuation on the slot named, or is ILLEGAL (30 R92). -/
theorem withSlot_next {n : BitVec 8} {s t : State} {f : KeySlot → Result} (h : withSlot n s f = .next t) :
    (s.keys[n.toNat]? = none ∧ t = s.illegal) ∨ ∃ k, s.keys[n.toNat]? = some k ∧ f k = .next t := by
  unfold withSlot at h
  split at h
  · next k hk => exact .inr ⟨k, hk, h⟩
  · next hk => cases h; exact .inl ⟨hk, rfl⟩

theorem withFrame_some {s : State} {f : Octets → Result} {F : Octets} (h : s.frame = some F) : withFrame s f = f F := by
  simp [withFrame, h]

theorem withFrame_none {s : State} {f : Octets → Result} (h : s.frame = none) :
    withFrame s f = .fault .inputUnwritten := by simp [withFrame, h]

/-- `withFrame` goes on only with a frame all of whose octets hold a value (20 R65). -/
theorem withFrame_next {s t : State} {f : Octets → Result} (h : withFrame s f = .next t) :
    ∃ F, s.frame = some F ∧ f F = .next t := by
  unfold withFrame at h
  split at h
  · next F hF => exact ⟨F, hF, h⟩
  · cases h

/-- A failing command answers the state of 60 R322. -/
theorem fail_next {kind : CmdKind} {c : Status} {s t : State} (h : fail kind c s = .next t) : t = s.raise kind c := by
  cases h; rfl

/-- A write to one slot leaves every other slot alone (10 R50). -/
theorem setSlot_get {s : State} {n m : Nat} {k : KeySlot} :
    (s.setSlot n k).keys[m]? = if n = m then (if n < s.keys.length then some k else none) else s.keys[m]? := by
  simp only [State.setSlot, List.getElem?_set]

@[simp] theorem setSlot_nkeys (s : State) (n : Nat) (k : KeySlot) : (s.setSlot n k).nkeys = s.nkeys := by
  simp [State.nkeys, State.setSlot]

/-- `emit` changes nothing but the queue (20 R63). -/
theorem emit_eq (s : State) (e : Event) :
    s.emit e = { s with evtq := if s.evtq.length < s.cfg.evtcap then s.evtq ++ [e] else s.evtq } := by
  unfold State.emit; split <;> rfl

/-- The queue never exceeds its capacity (20 R63). -/
theorem emit_length {s : State} {e : Event} (h : s.evtq.length ≤ s.cfg.evtcap) :
    (s.emit e).evtq.length ≤ (s.emit e).cfg.evtcap := by
  rw [emit_eq]; simp only; split
  · simp; omega
  · exact h

/-- An escalation changes nothing but the queue and, for an access point, `IFFLAGS[0]` (46 R304, R305). -/
theorem escalate_eq (s : State) (tsc : BitVec 48) :
    ∃ q, s.escalate tsc = { s with evtq := q, ifflags := if s.opmode = .ap then s.ifflags ||| 1 else s.ifflags } := by
  unfold State.escalate
  split
  · next h => exact ⟨_, by rw [State.escalateAp, emit_eq]; simp [h, State.setCountermeasures]; rfl⟩
  · next h =>
    simp only [State.escalateSta, emit_eq, h]
    exact ⟨_, rfl⟩

/-- An escalation keeps the queue within its capacity (20 R63). -/
theorem escalate_length {s : State} {tsc : BitVec 48} (h : s.evtq.length ≤ s.cfg.evtcap) :
    (s.escalate tsc).evtq.length ≤ (s.escalate tsc).cfg.evtcap := by
  unfold State.escalate
  split
  · exact emit_length (by simpa using h)
  · exact emit_length (emit_length (emit_length (emit_length h)))

/-- The three runs of the MIC-failure handler (46 R300 to R306). -/
theorem handler_cases (s : State) (tsc : BitVec 48) :
    (s.countermeasuresActive = true ∧ s.handler tsc = s) ∨
    (s.countermeasuresActive = false ∧ s.outsideWindow = true ∧ s.handler tsc = s.recordFailure tsc) ∨
    (s.countermeasuresActive = false ∧ s.outsideWindow = false ∧
      s.handler tsc = (s.escalate tsc).recordFailure tsc) := by
  unfold State.handler
  cases h1 : s.countermeasuresActive <;> cases h2 : s.outsideWindow <;> simp

/-- The handler changes nothing but the countermeasures state and the queue (46 R300). -/
theorem handler_eq (s : State) (tsc : BitVec 48) :
    ∃ q f tk ts sn, s.handler tsc =
      { s with evtq := q, ifflags := f, micfailTick := tk, micfailTsc := ts, micfailSeen := sn } := by
  rcases handler_cases s tsc with ⟨-, h⟩ | ⟨-, -, h⟩ | ⟨-, -, h⟩
  · exact ⟨s.evtq, s.ifflags, s.micfailTick, s.micfailTsc, s.micfailSeen, h⟩
  · exact ⟨s.evtq, s.ifflags, s.ticks, tsc, true, h⟩
  · obtain ⟨q, hq⟩ := escalate_eq s tsc
    exact ⟨q, _, s.ticks, tsc, true, by rw [h, hq]; rfl⟩

/-! ### Commands -/

/-- CCMP_SET_KEY (42 R180). -/
theorem execCcmpSetKey_next {n : BitVec 8} {s t : State} (h : execCcmpSetKey n s = .next t) :
    (s.keys[n.toNat]? = none ∧ t = s.illegal) ∨
    (∃ k, s.keys[n.toNat]? = some k ∧ s.allocFail = true ∧ t = s.raise .other .nomem) ∨
    (∃ k, s.keys[n.toNat]? = some k ∧ s.allocFail = false ∧ t = (s.setSlot n.toNat s.ccmpInstall).setCode .ok) := by
  rcases withSlot_next h with h | ⟨k, hk, h⟩
  · exact .inl h
  · split at h
    · next ha => exact .inr (.inl ⟨k, hk, ha, fail_next h⟩)
    · next ha => cases h; exact .inr (.inr ⟨k, hk, by simpa using ha, rfl⟩)

/-- TKIP_SET_KEY (44 R241). -/
theorem execTkipSetKey_next {n : BitVec 8} {s t : State} (h : execTkipSetKey n s = .next t) :
    (s.keys[n.toNat]? = none ∧ t = s.illegal) ∨
    (∃ k, s.keys[n.toNat]? = some k ∧ s.allocFail = true ∧ t = s.raise .other .nomem) ∨
    (∃ k, s.keys[n.toNat]? = some k ∧ s.allocFail = false ∧
      t = (s.drawFree.setSlot n.toNat s.tkipInstall).setCode .ok) := by
  rcases withSlot_next h with h | ⟨k, hk, h⟩
  · exact .inl h
  · split at h
    · next ha => exact .inr (.inl ⟨k, hk, ha, fail_next h⟩)
    · next ha => cases h; exact .inr (.inr ⟨k, hk, by simpa using ha, rfl⟩)

/-- CCMP_DELETE_KEY (42 R181). -/
theorem execCcmpDeleteKey_next {n : BitVec 8} {s t : State} (h : execCcmpDeleteKey n s = .next t) :
    (s.keys[n.toNat]? = none ∧ t = s.illegal) ∨
    (∃ k, s.keys[n.toNat]? = some k ∧ k.cipher = .tkip ∧ t = s.raise .other .badKey) ∨
    (∃ k, s.keys[n.toNat]? = some k ∧ k.cipher ≠ .tkip ∧ t = (s.setSlot n.toNat KeySlot.empty).setCode .ok) := by
  rcases withSlot_next h with h | ⟨k, hk, h⟩
  · exact .inl h
  · split at h
    · next ha => exact .inr (.inl ⟨k, hk, ha, fail_next h⟩)
    · next ha => cases h; exact .inr (.inr ⟨k, hk, ha, rfl⟩)

/-- TKIP_DELETE_KEY (44 R242). -/
theorem execTkipDeleteKey_next {n : BitVec 8} {s t : State} (h : execTkipDeleteKey n s = .next t) :
    (s.keys[n.toNat]? = none ∧ t = s.illegal) ∨
    (∃ k, s.keys[n.toNat]? = some k ∧ k.cipher = .ccmp ∧ t = s.raise .other .badKey) ∨
    (∃ k, s.keys[n.toNat]? = some k ∧ k.cipher ≠ .ccmp ∧ t = (s.setSlot n.toNat KeySlot.empty).setCode .ok) := by
  rcases withSlot_next h with h | ⟨k, hk, h⟩
  · exact .inl h
  · split at h
    · next ha => exact .inr (.inl ⟨k, hk, ha, fail_next h⟩)
    · next ha => cases h; exact .inr (.inr ⟨k, hk, ha, rfl⟩)

/-- CCMP_ENCRYPT on a CCMP slot (42 R188): a failure in the order of 60 R331, or the protected frame. -/
theorem ccmpEncryptFrame_next {n : BitVec 8} {s t : State} {k : KeySlot} {rk : List Block} {F : Octets}
    (h : ccmpEncryptFrame n s k rk F = .next t) :
    (headerOk F = false ∧ t = s.raise .frame .malformed) ∨
    (headerOk F = true ∧ s.noMem (F.length + 16) = true ∧ t = s.raise .frame .nomem) ∨
    (headerOk F = true ∧ s.noMem (F.length + 16) = false ∧ k.tsc = counterMax ∧ t = s.raise .frame .pnExhausted) ∨
    (headerOk F = true ∧ s.noMem (F.length + 16) = false ∧ k.tsc ≠ counterMax ∧
      t = (s.setSlot n.toNat { k with tsc := k.tsc + 1 }).deliver (ccmpProtect rk k.id (k.tsc + 1) F)) := by
  unfold ccmpEncryptFrame at h
  split at h
  · next h1 => exact .inl ⟨by simpa using h1, fail_next h⟩
  next h1 =>
  split at h
  · next h2 => exact .inr (.inl ⟨by simpa using h1, h2, fail_next h⟩)
  next h2 =>
  split at h
  · next h3 => exact .inr (.inr (.inl ⟨by simpa using h1, by simpa using h2, h3, fail_next h⟩))
  · next h3 => cases h; exact .inr (.inr (.inr ⟨by simpa using h1, by simpa using h2, h3, rfl⟩))

/-- CCMP_ENCRYPT (42 R188). -/
theorem execCcmpEncrypt_next {n : BitVec 8} {s t : State} (h : execCcmpEncrypt n s = .next t) :
    (s.keys[n.toNat]? = none ∧ t = s.illegal) ∨
    (∃ k, s.keys[n.toNat]? = some k ∧ k.cipher ≠ .ccmp ∧ t = s.raise .frame .badKey) ∨
    (∃ k rk F, s.keys[n.toNat]? = some k ∧ k.ctx = .ccmp rk ∧ s.frame = some F ∧
      ccmpEncryptFrame n s k rk F = .next t) := by
  rcases withSlot_next h with h | ⟨k, hk, h⟩
  · exact .inl h
  · cases hc : k.ctx with
    | absent => exact .inr (.inl ⟨k, hk, by simp [KeySlot.cipher, hc], fail_next (by simpa [hc] using h)⟩)
    | tkip c => exact .inr (.inl ⟨k, hk, by simp [KeySlot.cipher, hc], fail_next (by simpa [hc] using h)⟩)
    | ccmp rk =>
      simp only [hc] at h
      obtain ⟨F, hF, h⟩ := withFrame_next h
      exact .inr (.inr ⟨k, rk, F, hk, hc, hF, h⟩)

/-- CCMP_DECRYPT on a CCMP slot (42 R190): a failure in the order of 60 R331, or the recovered frame. -/
theorem ccmpDecryptFrame_next {n : BitVec 8} {s t : State} {k : KeySlot} {rk : List Block} {F : Octets}
    (h : ccmpDecryptFrame n s k rk F = .next t) :
    (∃ c, c ∈ [Status.malformed, .noExtIv, .replay, .nomem, .authFailCcmp] ∧ t = s.raise .frame c) ∨
    (headerOk F = true ∧ hdrlen F + 16 ≤ F.length ∧ extIv (cipherHeader F) = true ∧
      k.counter (ccmpSel F) < ccmpPn (cipherHeader F) ∧ s.noMem (F.length - 16) = false ∧
      (ccmpOpen rk (ccmpPn (cipherHeader F)) F).2 = slice F (F.length - 8) F.length ∧
      t = (s.setSlot n.toNat (k.commit (ccmpSel F) (ccmpPn (cipherHeader F)))).deliver
        (clearProtected (F.take (hdrlen F)) ++ (ccmpOpen rk (ccmpPn (cipherHeader F)) F).1)) := by
  unfold ccmpDecryptFrame at h
  split at h
  · exact .inl ⟨.malformed, by simp, fail_next h⟩
  next h1 =>
  split at h
  · exact .inl ⟨.malformed, by simp, fail_next h⟩
  next h2 =>
  simp only at h
  split at h
  · exact .inl ⟨.noExtIv, by simp, fail_next h⟩
  next h3 =>
  split at h
  · exact .inl ⟨.replay, by simp, fail_next h⟩
  next h4 =>
  split at h
  · exact .inl ⟨.nomem, by simp, fail_next h⟩
  next h5 =>
  split at h
  · exact .inl ⟨.authFailCcmp, by simp, fail_next h⟩
  next h6 =>
  cases h
  exact .inr ⟨by simpa using h1, by omega, by simpa using h3, by simpa using h4, by simpa using h5, by simpa using h6, rfl⟩

/-- CCMP_DECRYPT (42 R190). -/
theorem execCcmpDecrypt_next {n : BitVec 8} {s t : State} (h : execCcmpDecrypt n s = .next t) :
    (s.keys[n.toNat]? = none ∧ t = s.illegal) ∨
    (∃ k, s.keys[n.toNat]? = some k ∧ k.cipher ≠ .ccmp ∧ t = s.raise .frame .badKey) ∨
    (∃ k rk F, s.keys[n.toNat]? = some k ∧ k.ctx = .ccmp rk ∧ s.frame = some F ∧
      ccmpDecryptFrame n s k rk F = .next t) := by
  rcases withSlot_next h with h | ⟨k, hk, h⟩
  · exact .inl h
  · cases hc : k.ctx with
    | absent => exact .inr (.inl ⟨k, hk, by simp [KeySlot.cipher, hc], fail_next (by simpa [hc] using h)⟩)
    | tkip c => exact .inr (.inl ⟨k, hk, by simp [KeySlot.cipher, hc], fail_next (by simpa [hc] using h)⟩)
    | ccmp rk =>
      simp only [hc] at h
      obtain ⟨F, hF, h⟩ := withFrame_next h
      exact .inr (.inr ⟨k, rk, F, hk, hc, hF, h⟩)

/-- TKIP_ENCRYPT on a TKIP slot (44 R243): a failure in the order of 60 R331, or the protected frame. -/
theorem tkipEncryptFrame_next {n : BitVec 8} {s t : State} {k : KeySlot} {c : TkipCtx} {F : Octets}
    (h : tkipEncryptFrame n s k c F = .next t) :
    (headerOk F = false ∧ t = s.raise .frame .malformed) ∨
    (headerOk F = true ∧ s.noMem (F.length + 20) = true ∧ t = s.raise .frame .nomem) ∨
    (headerOk F = true ∧ s.noMem (F.length + 20) = false ∧ k.tsc = counterMax ∧ t = s.raise .frame .pnExhausted) ∨
    (headerOk F = true ∧ s.noMem (F.length + 20) = false ∧ k.tsc ≠ counterMax ∧ ∃ e,
      e = tkipSeal k.tk (txMix k.tk c F (k.tsc + 1)).txttak (k.tsc + 1) (tkipPlain (k.michaelKey c.txmicOff) F) ∧
      t = (s.setSlot n.toNat
            { k with tsc := k.tsc + 1, ctx := .tkip { txMix k.tk c F (k.tsc + 1) with rc4 := e.2 } }).deliver
          (F.take (hdrlen F) ++ tkipHeader (k.tsc + 1) k.id ++ e.1)) := by
  unfold tkipEncryptFrame at h
  split at h
  · next h1 => exact .inl ⟨by simpa using h1, fail_next h⟩
  next h1 =>
  split at h
  · next h2 => exact .inr (.inl ⟨by simpa using h1, h2, fail_next h⟩)
  next h2 =>
  split at h
  · next h3 => exact .inr (.inr (.inl ⟨by simpa using h1, by simpa using h2, h3, fail_next h⟩))
  · next h3 => cases h; exact .inr (.inr (.inr ⟨by simpa using h1, by simpa using h2, h3, _, rfl, rfl⟩))

/-- TKIP_ENCRYPT (44 R243). -/
theorem execTkipEncrypt_next {n : BitVec 8} {s t : State} (h : execTkipEncrypt n s = .next t) :
    (s.keys[n.toNat]? = none ∧ t = s.illegal) ∨
    (∃ k, s.keys[n.toNat]? = some k ∧ k.cipher ≠ .tkip ∧ t = s.raise .frame .badKey) ∨
    (∃ k c F, s.keys[n.toNat]? = some k ∧ k.ctx = .tkip c ∧ s.frame = some F ∧
      tkipEncryptFrame n s k c F = .next t) := by
  rcases withSlot_next h with h | ⟨k, hk, h⟩
  · exact .inl h
  · cases hc : k.ctx with
    | absent => exact .inr (.inl ⟨k, hk, by simp [KeySlot.cipher, hc], fail_next (by simpa [hc] using h)⟩)
    | ccmp rk => exact .inr (.inl ⟨k, hk, by simp [KeySlot.cipher, hc], fail_next (by simpa [hc] using h)⟩)
    | tkip c =>
      simp only [hc] at h
      obtain ⟨F, hF, h⟩ := withFrame_next h
      exact .inr (.inr ⟨k, c, F, hk, hc, hF, h⟩)

/-- The checks of TKIP_DECRYPT before the key mix (44 R247; 60 R331): the first six failures leave the slot unchanged. -/
theorem tkipDecryptFrame_next {n : BitVec 8} {s t : State} {k : KeySlot} {c : TkipCtx} {F : Octets}
    (h : tkipDecryptFrame n s k c F = .next t) :
    (∃ c', c' ∈ [Status.malformed, .noExtIv, .replay, .nomem] ∧ t = s.raise .frame c') ∨
    (headerOk F = true ∧ hdrlen F + 20 ≤ F.length ∧ extIv (cipherHeader F) = true ∧
      k.counter (tkipSel F) < tkipTsc (cipherHeader F) ∧ s.noMem (F.length - 20) = false ∧
      tkipVerify n s k (rxMix k.tk c F (tkipTsc (cipherHeader F)) (k.counter (tkipSel F))) F
        (tkipTsc (cipherHeader F)) = .next t) := by
  unfold tkipDecryptFrame at h
  split at h
  · exact .inl ⟨.malformed, by simp, fail_next h⟩
  next h1 =>
  split at h
  · exact .inl ⟨.malformed, by simp, fail_next h⟩
  next h2 =>
  simp only at h
  split at h
  · exact .inl ⟨.noExtIv, by simp, fail_next h⟩
  next h3 =>
  split at h
  · exact .inl ⟨.replay, by simp, fail_next h⟩
  next h4 =>
  split at h
  · exact .inl ⟨.nomem, by simp, fail_next h⟩
  next h5 =>
  exact .inr ⟨by simpa using h1, by omega, by simpa using h3, by simpa using h4, by simpa using h5, h⟩

/-- TKIP_DECRYPT after the key mix (44 R247): an ICV failure, a MIC failure with the handler run, or the recovered
frame. `e` is the RC4 run over everything after the TKIP header. -/
theorem tkipVerify_next {n : BitVec 8} {s t : State} {k : KeySlot} {c : TkipCtx} {F : Octets} {tsc : BitVec 48}
    (h : tkipVerify n s k c F tsc = .next t) :
    ∃ e, e = rc4Crypt (rc4Keysetup (phase2 k.tk c.rxttak (iv16 tsc))) (F.drop (hdrlen F + 8)) ∧
    ((icv ((tkipCut e.1).body ++ (tkipCut e.1).rmic) ≠ (tkipCut e.1).ricv ∧
        t = (s.setSlot n.toNat { k with ctx := .tkip { c with rc4 := e.2 } }).raise .frame .icvFailTkip) ∨
     (icv ((tkipCut e.1).body ++ (tkipCut e.1).rmic) = (tkipCut e.1).ricv ∧
        frameMic (k.michaelKey c.rxmicOff) F (tkipCut e.1).body ≠ (tkipCut e.1).rmic ∧
        t = ((s.setSlot n.toNat { k with ctx := .tkip { c with rc4 := e.2 } }).handler tsc).raise .frame .micFailTkip) ∨
     (icv ((tkipCut e.1).body ++ (tkipCut e.1).rmic) = (tkipCut e.1).ricv ∧
        frameMic (k.michaelKey c.rxmicOff) F (tkipCut e.1).body = (tkipCut e.1).rmic ∧
        t = (s.setSlot n.toNat
              (({ k with ctx := .tkip { c with rc4 := e.2, rxttakOk := true } } : KeySlot).commit (tkipSel F) tsc)).deliver
            (clearProtected (F.take (hdrlen F)) ++ (tkipCut e.1).body))) := by
  unfold tkipVerify at h
  refine ⟨_, rfl, ?_⟩
  simp only at h
  split at h
  · next h1 => exact .inl ⟨h1, fail_next h⟩
  next h1 =>
  split at h
  · next h2 => exact .inr (.inl ⟨by simpa using h1, h2, fail_next h⟩)
  · next h2 => cases h; exact .inr (.inr ⟨by simpa using h1, by simpa using h2, rfl⟩)

/-- TKIP_DECRYPT (44 R247). -/
theorem execTkipDecrypt_next {n : BitVec 8} {s t : State} (h : execTkipDecrypt n s = .next t) :
    (s.keys[n.toNat]? = none ∧ t = s.illegal) ∨
    (∃ k, s.keys[n.toNat]? = some k ∧ k.cipher ≠ .tkip ∧ t = s.raise .frame .badKey) ∨
    (∃ k c F, s.keys[n.toNat]? = some k ∧ k.ctx = .tkip c ∧ s.frame = some F ∧
      tkipDecryptFrame n s k c F = .next t) := by
  rcases withSlot_next h with h | ⟨k, hk, h⟩
  · exact .inl h
  · cases hc : k.ctx with
    | absent => exact .inr (.inl ⟨k, hk, by simp [KeySlot.cipher, hc], fail_next (by simpa [hc] using h)⟩)
    | ccmp rk => exact .inr (.inl ⟨k, hk, by simp [KeySlot.cipher, hc], fail_next (by simpa [hc] using h)⟩)
    | tkip c =>
      simp only [hc] at h
      obtain ⟨F, hF, h⟩ := withFrame_next h
      exact .inr (.inr ⟨k, c, F, hk, hc, hF, h⟩)

/-- TKIP_MIC (44 R250). -/
theorem execTkipMic_next {s t : State} (h : execTkipMic s = .next t) :
    ∃ F, s.frame = some F ∧
    (((headerOk F = false ∨ F.length < s.offset) ∧ t = s.raise .other .malformed) ∨
     (headerOk F = true ∧ s.offset ≤ F.length ∧
        t = (s.setMicout (frameMic s.mickey F (F.drop s.offset))).setCode .ok)) := by
  obtain ⟨F, hF, h⟩ := withFrame_next h
  refine ⟨F, hF, ?_⟩
  split at h
  · next h1 => exact .inl ⟨.inl (by simpa using h1), fail_next h⟩
  next h1 =>
  split at h
  · next h2 => exact .inl ⟨.inr h2, fail_next h⟩
  · next h2 => cases h; exact .inr ⟨by simpa using h1, by omega, rfl⟩

end Sys2Proof.Machine
end

