-- ==== Sys2Proof/Laws/PerInstr.lean ====
section
/-! SUPPORT. Statements about every command as syntax, one lemma a constructor: the fields of its command word
(30 R90, R91). -/

namespace Sys2Proof

theorem reservedField_pack (a o : BitVec 8) : reservedField ((a.setWidth 32 <<< 8) ||| o.setWidth 32) = 0 := by
  apply BitVec.eq_of_getLsbD_eq
  intro i hi
  have h1 : 8 ≤ 16 + i - 8 := by omega
  have h2 : 8 ≤ 16 + i := by omega
  simp [reservedField, BitVec.getLsbD_of_ge _ _ h1, BitVec.getLsbD_of_ge _ _ h2]

theorem opField_pack (a o : BitVec 8) : opField ((a.setWidth 32 <<< 8) ||| o.setWidth 32) = o := by
  apply BitVec.eq_of_getLsbD_eq
  intro i hi
  have h1 : i < 32 := by omega
  simp [opField, hi, h1]

theorem slotField_pack (a o : BitVec 8) : slotField ((a.setWidth 32 <<< 8) ||| o.setWidth 32) = a := by
  apply BitVec.eq_of_getLsbD_eq
  intro i hi
  have h1 : 8 + i < 32 := by omega
  simp [slotField, hi, h1]

end Sys2Proof

namespace Sys2Proof.Laws.WordFields

/-- The word of a command has its operation code in bits 7:0, its slot (0 where none is taken) in bits 15:8 and zero in
bits 31:16 (30 R90, R91). -/
def Statement (i : Instr) : Prop :=
  opField (encode i) = opcode i ∧ slotField (encode i) = i.slot?.getD 0 ∧ reservedField (encode i) = 0

theorem ofPack (i : Instr) : Statement i := ⟨opField_pack _ _, slotField_pack _ _, reservedField_pack _ _⟩

theorem ccmpSetKey (slot : BitVec 8) : Statement (.ccmpSetKey slot) := ofPack _
theorem ccmpDeleteKey (slot : BitVec 8) : Statement (.ccmpDeleteKey slot) := ofPack _
theorem ccmpEncrypt (slot : BitVec 8) : Statement (.ccmpEncrypt slot) := ofPack _
theorem ccmpDecrypt (slot : BitVec 8) : Statement (.ccmpDecrypt slot) := ofPack _
theorem tkipSetKey (slot : BitVec 8) : Statement (.tkipSetKey slot) := ofPack _
theorem tkipDeleteKey (slot : BitVec 8) : Statement (.tkipDeleteKey slot) := ofPack _
theorem tkipEncrypt (slot : BitVec 8) : Statement (.tkipEncrypt slot) := ofPack _
theorem tkipDecrypt (slot : BitVec 8) : Statement (.tkipDecrypt slot) := ofPack _
theorem tkipMic : Statement .tkipMic := ofPack _
theorem micFailure : Statement .micFailure := ofPack _

end Sys2Proof.Laws.WordFields
end

