-- ==== Sys2Proof/Tests/Slice0.lean ====
section
/-! SUPPORT. Tests: expected values from the spec's encodings (30 R90, R91) and vectors (95), and for every statement with
hypotheses a named witness, a state and operands that meet all of them together. -/

open Sys2Proof Sys2Proof.Machine Sys2Proof.Claims

namespace Sys2Proof.Tests

/-! Each test is checked before the next one starts: their kernel evaluations together would take much memory. -/
set_option Elab.async false

/-! ### Helpers -/

/-- The `k` octets of a number, most significant first. -/
def hx (k n : Nat) : Octets := (List.range k).map fun i => BitVec.ofNat 8 (n >>> (8 * (k - 1 - i)))

/-- The next state of an outcome. -/
def after : Result → Option State
  | .next t => some t
  | .fault _ => none
  | .refused _ => none

/-- An outcome is a next state with a property. -/
theorem runs {r : Result} (P : State → Prop) [DecidablePred P] (h : (after r).any (fun t => decide (P t)) = true) :
    ∃ t, r = .next t ∧ P t := by
  cases r with
  | next t => exact ⟨t, rfl, of_decide_eq_true h⟩
  | fault f => cases h
  | refused f => cases h

/-- 95, common material: `TK0`, `K32`, `H24`, `HT24`, and the texts of V11 and V33. -/
def tk0 : Octets := hx 16 0x000102030405060708090A0B0C0D0E0F
def k32 : Octets := tk0 ++ hx 16 0x101112131415161718191A1B1C1D1E1F
def h24 : Octets := hx 24 0x084000000200000000010200000000020200000000031000
def ht24 : Octets := hx 24 0x084200000200000000011022334455660200000000031000
def hello : Octets := hx 12 0x48656C6C6F2C2043434D5021
def tkipTest : Octets := hx 9 0x544B49502074657374

/-- `F1` of V11 and `G1` of V33. -/
def f1 : Octets := h24 ++ hx 8 0x0100002000000000 ++ hx 12 0x875942BBCB045CEDAD29D194 ++ hx 8 0x5A5E321FCFA18E89
def g1 : Octets :=
  ht24 ++ hx 8 0x0020012000000000 ++ hx 9 0x986996CF6493B9AA38 ++ hx 8 0xFD94AF7306F8A23F ++ hx 4 0x2E5AA880

/-- A fresh CCMP slot with `TK0`. -/
def rk0 : List Block := aesExpand tk0
def kC : KeySlot :=
  { key := keyField (tk0 ++ zeros 16), id := 0, group := false, tsc := 0, rsc := Vector.replicate 16 0, mgmtRsc := 0,
    ctx := .ccmp rk0 }

/-- An RC4 engine before its first key setup. -/
def rc4Blank : Rc4 := { S := (List.range 256).map (BitVec.ofNat 8), i := 0, j := 0 }

/-- A fresh TKIP slot with `K32`, installed under an operating mode. -/
def cT (m : OpMode) : TkipCtx :=
  { rc4 := rc4Blank, txmicOff := txMicOff m, rxmicOff := rxMicOff m, txttak := Ttak.zero, rxttak := Ttak.zero,
    txttakOk := false, rxttakOk := false }
def kT (m : OpMode) : KeySlot :=
  { key := keyField k32, id := 0, group := false, tsc := 0, rsc := Vector.replicate 16 0, mgmtRsc := 0,
    ctx := .tkip (cT m) }

/-- A block with the given slots and the frame `F` in `INBUF`; `INCAP = OUTCAP = 2048`, `HZ = 100`, `EVTCAP = 8`. -/
def block (keys : List KeySlot) (F : Octets) : State :=
  { State.resetWith defaultConfig 0 with keys := keys, inbuf := memOf 0 F, inlen := BitVec.ofNat 16 F.length }

/-- The output frame of a state. -/
def outFrame (t : State) : Option Octets := memReadAll t.outbuf 0 t.outlen.toNat

/-- A block with four slots right after reset. -/
def four : State := State.resetWith defaultConfig 4

/-- An outcome is a fault. -/
theorem faults {r : Result} (h : (match r with | .fault _ => true | _ => false) = true) : ∃ f, r = .fault f := by
  cases r with
  | next t => cases h
  | fault f => exact ⟨f, rfl⟩
  | refused f => cases h

theorem fst_eq {α β : Type} {p : α × β} {a : α} (h : p.1 = a) : ∃ b, (a, b) = p :=
  ⟨p.2, by rw [← h]⟩

/-! ### Decoding: words written out bit by bit from 30 R90 and R91 (reserved, slot, operation code) -/

theorem test_decode_ccmpSetKey : decode 0b0000000000000000_00000101_00000001 = .ok (.ccmpSetKey 5) := by decide
theorem test_decode_ccmpDeleteKey : decode 0b0000000000000000_10000000_00000010 = .ok (.ccmpDeleteKey 128) := by decide
theorem test_decode_ccmpEncrypt : decode 0b0000000000000000_00000011_00000011 = .ok (.ccmpEncrypt 3) := by decide
theorem test_decode_ccmpDecrypt : decode 0b0000000000000000_11111111_00000100 = .ok (.ccmpDecrypt 255) := by decide
theorem test_decode_tkipSetKey : decode 0b0000000000000000_00000010_00010001 = .ok (.tkipSetKey 2) := by decide
theorem test_decode_tkipDeleteKey : decode 0b0000000000000000_01010101_00010010 = .ok (.tkipDeleteKey 85) := by decide
theorem test_decode_tkipEncrypt : decode 0b0000000000000000_00000000_00010011 = .ok (.tkipEncrypt 0) := by decide
theorem test_decode_tkipDecrypt : decode 0b0000000000000000_00000001_00010100 = .ok (.tkipDecrypt 1) := by decide
theorem test_decode_tkipMic : decode 0b0000000000000000_00000000_00010101 = .ok .tkipMic := by decide
theorem test_decode_micFailure : decode 0b0000000000000000_00000000_00010110 = .ok .micFailure := by decide

/-- V50: the illegal words, on a block with four slots. -/
theorem test_decode_illegal :
    decodeFor 4 0x00000403 = .error .slotOutOfRange ∧ decodeFor 4 0x00000115 = .error .slotNotZero ∧
    decodeFor 4 0x00010003 = .error .reservedBits ∧ decodeFor 4 0x00000000 = .error .unassignedOp ∧
    decodeFor 4 0x00000005 = .error .unassignedOp ∧ decodeFor 4 0x00000010 = .error .unassignedOp ∧
    decodeFor 4 0x00000017 = .error .unassignedOp ∧ decodeFor 4 0x000000FF = .error .unassignedOp := by decide

/-- The table of operation codes numbers the first word's bits from 0 (opcode_table.json). -/
theorem test_decodeTableWord : decodeTableWord 32 0x00000303 = some (.ccmpEncrypt 3) ∧
    decodeTableWord 8 0x16 = some .micFailure ∧ decodeTableWord 32 0x00000017 = none := by decide

/-- The check of WellFormed refuses a slot number the block does not have (30 R92). -/
theorem test_wellFormed_refuses : (Instr.ccmpEncrypt 4).wellFormed 4 = false ∧
    (Instr.tkipSetKey 0).wellFormed 0 = false ∧ (Instr.ccmpEncrypt 3).wellFormed 4 = true ∧
    Instr.tkipMic.wellFormed 0 = true := by decide

/-- A placed command is run by the very next step: from reset, the STATUS of CCMP_SET_KEY 0 is OK and slot 0 is CCMP. -/
theorem test_fetch : (after (step (State.reset.withFetchWord 32 0x00000001))).any
    (fun t => t.code == .ok && (t.keys[0]?.map KeySlot.cipher == some .ccmp)) = true := by decide +kernel

/-! ### Units: the vectors of 95 section 2 -/

/-- V20. -/
theorem test_aes : (aes rk0 (blockOf (hx 16 0x00112233445566778899AABBCCDDEEFF))).octets =
    hx 16 0x69C4E0D86A7B0430D8CDB78070B4C55A := by decide +kernel
/-- V20, the last round key. -/
theorem test_aes_expand : (rk0[10]?).map Block.octets = some (hx 16 0x13111D7FE3944A17F307A78B4D2B30C5) := by
  decide +kernel
/-- V22. -/
theorem test_michael : michael (hx 8 0xD55E100510128986) (hx 7 0x4D69636861656C) = hx 8 0x0A942B124ECAA546 ∧
    michael (zeros 8) [] = hx 8 0x82925C1CA1D130B8 := by decide +kernel
/-- V23. -/
theorem test_icv : icv (hx 9 0x313233343536373839) = hx 4 0x2639F4CB ∧ icv [] = zeros 4 := by decide +kernel
/-- V24. -/
theorem test_sbox16 : (sub16 0, sub16 0x0100, sub16 0xFFFF, sub16 0x1234) = (0x6363, 0x425D, 0x1616, 0x70A1) := by
  decide +kernel
/-- V30. -/
theorem test_phase1 : phase1 tk0 (hx 6 0x102233445566) 0 = ⟨0x3DD2, 0x016E, 0x76F4, 0x8697, 0xB2E8⟩ := by decide +kernel
/-- V31, row `IV16 = 0xFFFF`. -/
theorem test_phase2 : phase2 tk0 ⟨0x3DD2, 0x016E, 0x76F4, 0x8697, 0xB2E8⟩ 0xFFFF =
    hx 16 0xFF7FFF2E7DECF5487729244D1B605D09 := by decide +kernel
/-- V1. -/
theorem test_ccm : ccm (aesExpand (hx 16 0xC0C1C2C3C4C5C6C7C8C9CACBCCCDCECF)) (hx 13 0x00000003020100A0A1A2A3A4A5)
    (hx 16 0x00080001020304050607000000000000) (hx 23 0x08090A0B0C0D0E0F101112131415161718191A1B1C1D1E) .encrypt =
    (hx 23 0x588C979A61C663D2F066D0C2C0F989806D5F6B61DAC384, hx 8 0x17E8D12CFDF926E0) := by decide +kernel
/-- V27: the header lengths. -/
theorem test_hdrlen : ([0x0840, 0x0843, 0x8841, 0x8843, 0x88C1, 0x88C3, 0x08C1, 0xC040, 0xD0C0].map
    fun n => hdrlen (hx 2 n)) = [24, 30, 26, 32, 30, 36, 24, 24, 28] := by decide +kernel
/-- V27: admission. -/
theorem test_headerOk : headerOk (hx 2 0xB400 ++ zeros 30) = false ∧ headerOk (hx 2 0x0C00 ++ zeros 30) = false ∧
    headerOk (hx 2 0x8843 ++ zeros 29) = false ∧ headerOk (hx 2 0x8843 ++ zeros 30) = true ∧ headerOk [] = false ∧
    headerOk [0x08] = false := by decide +kernel

/-! ### One step of each command -/

/-- R180's example: KS_INFO is 0x01 and KS_TSC 0. -/
theorem test_ccmpSetKey : (after (exec (.ccmpSetKey 0) four)).map (fun t => (t.csrValue .ksInfo, t.csrValue .ksTsc, t.code)) =
    some (0x01, 0, .ok) := by decide +kernel
/-- R180: an install discards what the slot held. -/
theorem test_ccmpSetKey_again : (after (exec (.ccmpSetKey 0) (block [{ kT .ap with tsc := 9 }] []))).map
    (fun t => (t.csrValue .ksInfo, t.csrValue .ksTsc)) = some (0x01, 0) := by decide +kernel
/-- R181's example. -/
theorem test_ccmpDeleteKey : (after (exec (.ccmpDeleteKey 0) (block [kC] []))).map (fun t => (t.keys, t.code)) =
    some ([KeySlot.empty], .ok) := by decide +kernel
/-- R181: BAD_KEY on a TKIP slot, which stays. -/
theorem test_ccmpDeleteKey_badKey : (after (exec (.ccmpDeleteKey 0) (block [kT .ap] []))).map (fun t => (t.keys, t.code)) =
    some ([kT .ap], .badKey) := by decide +kernel
/-- V11. -/
theorem test_ccmpEncrypt : (after (exec (.ccmpEncrypt 0) (block [kC] (h24 ++ hello)))).map
    (fun t => (outFrame t, t.code, t.inlen)) = some (some f1, .ok, 0) := by decide +kernel
/-- V13: four addresses, QoS, key index 2. -/
theorem test_ccmpEncrypt_v13 : (after (exec (.ccmpEncrypt 0) (block [{ kC with id := 2 }]
      (hx 32 0x887B2C000A00000000010A00000000020A000000000357120A00000000042501 ++
        hx 20 0x303132333435363738393A3B3C3D3E3F40414243)))).map (fun t => (outFrame t).map (List.drop 32)) =
    some (some (hx 8 0x010000A000000000 ++ hx 20 0x736D5224094D17ABFC255906E98E747F36D60440 ++
      hx 8 0x70277E7A877EA741)) := by decide +kernel
/-- V11: `F1` decrypts to the input with octet 1 = 00, and `rsc[0] = 1`. -/
theorem test_ccmpDecrypt : (after (exec (.ccmpDecrypt 0) (block [kC] f1))).map
    (fun t => (outFrame t, t.code, t.csrValue .ksRsc)) = some (some ((h24 ++ hello).set 1 0), .ok, 1) := by decide +kernel
/-- V18: octet 1 xor 40 is authenticated as it stands; octet 1 xor 08 is masked. -/
theorem test_ccmpDecrypt_v18 :
    (after (exec (.ccmpDecrypt 0) (block [kC] (f1.set 1 0x00)))).map State.code = some .authFailCcmp ∧
    (after (exec (.ccmpDecrypt 0) (block [kC] (f1.set 1 0x48)))).map State.code = some .ok := by decide +kernel
/-- R241's example: KS_INFO is 0x02, TXMIC is 10 .. 17 and RXMIC is 18 .. 1F. -/
theorem test_tkipSetKey : (after (exec (.tkipSetKey 0)
      { four with opmode := .ap, opr := Vector.ofFn fun i : Fin 16 => le32 k32 (4 * i.val) })).map
    (fun t => (t.csrValue .ksInfo, t.keys[0]?.map fun k => (k.michaelKey .at16, k.michaelKey .at24))) =
    some (0x02, some (hx 8 0x1011121314151617, hx 8 0x18191A1B1C1D1E1F)) := by decide +kernel
/-- 60 R326: NOMEM by the draw, and the slot stays. -/
theorem test_tkipSetKey_nomem : (after (exec (.tkipSetKey 0) { block [kC] [] with allocFail := true })).map
    (fun t => (t.keys, t.code)) = some ([kC], .nomem) := by decide +kernel
/-- R242. -/
theorem test_tkipDeleteKey : (after (exec (.tkipDeleteKey 0) (block [kT .sta] []))).map (fun t => (t.keys, t.code)) =
    some ([KeySlot.empty], .ok) := by decide +kernel
/-- V33. -/
theorem test_tkipEncrypt : ∃ t, exec (.tkipEncrypt 0) (block [kT .ap] (ht24 ++ tkipTest)) = .next t ∧
    (outFrame t = some g1 ∧ t.code = .ok ∧ t.outlen = 53 ∧ t.csrValue .ksInfo = 0x22) :=
  runs (fun t => outFrame t = some g1 ∧ t.code = .ok ∧ t.outlen = 53 ∧ t.csrValue .ksInfo = 0x22) (by decide +kernel)
/-- V37: at `IV16 = 0` Phase1 runs again with the new `IV32`, and the header carries it. -/
theorem test_txCache_rollover :
    txCache (kT .ap) (cT .ap) ht24 0x10000 = ⟨0xFF3D, 0x835F, 0xDD83, 0x4806, 0x494A⟩ ∧
    tkipHeader 0x10000 1 = hx 8 0x0020006001000000 := by decide +kernel
/-- V33: `G1` decrypts on the other side to the input with octet 1 = 02. -/
theorem test_tkipDecrypt : ∃ t, exec (.tkipDecrypt 0) (block [kT .sta] g1) = .next t ∧
    (outFrame t = some ((ht24 ++ tkipTest).set 1 0x02) ∧ t.code = .ok ∧ t.csrValue .ksInfo = 0x42 ∧
      t.csrValue .ksRsc = 1) :=
  runs (fun t => outFrame t = some ((ht24 ++ tkipTest).set 1 0x02) ∧ t.code = .ok ∧ t.csrValue .ksInfo = 0x42 ∧
    t.csrValue .ksRsc = 1) (by decide +kernel)
/-- V44: on a slot of the sender's own mode the ICV passes, the MIC fails and the handler runs. -/
theorem test_tkipDecrypt_micFail : ∃ t, exec (.tkipDecrypt 0) { block [kT .ap] g1 with ticks := 1000 } = .next t ∧
    (t.code = .micFailTkip ∧ t.micfailSeen = true ∧ t.micfailTick = 1000 ∧ t.micfailTsc = 1 ∧ t.csrValue .ksRsc = 0) :=
  runs (fun t => t.code = .micFailTkip ∧ t.micfailSeen = true ∧ t.micfailTick = 1000 ∧ t.micfailTsc = 1 ∧
    t.csrValue .ksRsc = 0) (by decide +kernel)
/-- `G1` with its last octet changed. -/
def g1Bad : Octets := g1.set 52 0x81
/-- The hazard of 70 R371: `rsc[0] = 3` with the words of another epoch, and a frame with TSC 4. -/
def cH : TkipCtx := { cT .sta with rxttak := ⟨0xFF3D, 0x835F, 0xDD83, 0x4806, 0x494A⟩, rxttakOk := true }
def kH : KeySlot := { kT .sta with rsc := (kT .sta).rsc.set 0 3, ctx := .tkip cH }
def gH : Octets := g1.set 26 4

/-- As in V36: the cache is used as it stands, the ICV fails quietly, the flag and the counter stay. -/
theorem test_tkipDecrypt_stale : ∃ t, exec (.tkipDecrypt 0) (block [kH] gH) = .next t ∧
    (t.code = .icvFailTkip ∧ t.micfailSeen = false ∧ t.csrValue .ksInfo = 0x42 ∧ t.csrValue .ksRsc = 3) :=
  runs (fun t => t.code = .icvFailTkip ∧ t.micfailSeen = false ∧ t.csrValue .ksInfo = 0x42 ∧ t.csrValue .ksRsc = 3)
    (by decide +kernel)

/-- The frame and the key of V32. -/
def v32 (offset : BitVec 32) : State :=
  { block [] (hx 24 0x080000000200000000010200000000020200000000031000 ++ hx 19 0x54686520717569636B2062726F776E20666F78) with
    opr := ((((Vector.replicate 16 0).set 8 0x1C5C9282).set 9 0xB830D1A1).set 11 offset) }
/-- V32, `OFFSET = 24`. -/
theorem test_tkipMic : (after (exec .tkipMic (v32 24))).map (fun t => (t.opr[14], t.opr[15], t.code, t.inlen)) =
    some (0x670E33A6, 0x6E56CD1A, .ok, 43) := by decide +kernel
/-- V32, `OFFSET = 43` and `OFFSET = 44`. -/
theorem test_tkipMic_bounds : (after (exec .tkipMic (v32 43))).map State.code = some .ok ∧
    (after (exec .tkipMic (v32 44))).map (fun t => (t.code, t.opr[14])) = some (.malformed, 0) := by decide +kernel
/-- A block that recorded a failure at tick 0 with TSC 5. -/
def failed (m : OpMode) (t : BitVec 64) : State :=
  { four with opmode := m, ticks := t, micfailSeen := true, micfailTsc := 5, opr := (Vector.replicate 16 0).set 12 9 }
/-- V40 and V41: access point, at tick 5999 and at tick 6000. -/
theorem test_micFailure_ap :
    (after (exec .micFailure (failed .ap 5999))).map (fun t => (t.ifflags, t.micfailTick, t.evtq.map Event.word)) =
      some (1, 5999, [0x0001000000000000]) ∧
    (after (exec .micFailure (failed .ap 6000))).map (fun t => (t.ifflags, t.micfailTick, t.micfailTsc, t.evtq)) =
      some (0, 6000, 9, []) := by decide +kernel
/-- V42: station. -/
theorem test_micFailure_sta :
    (after (exec .micFailure (failed .sta 3000))).map (fun t => (t.ifflags, t.evtq.map Event.word)) =
      some (0, [0x0002000000000005, 0x0002000000000009, 0x0003000000000000, 0x0004000000000000]) := by decide +kernel

/-! ### Witnesses: for every statement with hypotheses, what meets all of them together -/

/-- A host access pending on a state. -/
def pend (s : State) (a : HostAccess) : State := { s with host := [a] }

/-- The CCMP block about to encrypt and about to decrypt. -/
def sE : State := block [kC] (h24 ++ hello)
def sD : State := block [kC] f1

theorem witness_EveryCommandDecodesFromItsWord : (Instr.ccmpDecrypt 255).wellFormed 256 = true ∧
    (Instr.tkipSetKey 0).wellFormed 1 = true ∧ Instr.micFailure.wellFormed 1 = true := by decide

theorem witness_EveryLegalWordEncodesItsCommand : decodeFor 4 0x00000303 = .ok (.ccmpEncrypt 3) := by decide

theorem witness_IllegalWordsAreTheseAndOnlySetTheCode : ¬ illegalWord 4 0x00000303 ∧
    (∀ v ∈ ([0x403, 0x115, 0x10003, 0x17] : List (BitVec 64)), (pend four (.csrWrite .cmd v)).host = [.csrWrite .cmd v] ∧
      illegalWord (pend four (.csrWrite .cmd v)).nkeys (v.setWidth 32)) := by
  refine ⟨by decide, fun v hv => ⟨rfl, ?_⟩⟩
  simp only [List.mem_cons, List.not_mem_nil, or_false] at hv
  rcases hv with rfl | rfl | rfl | rfl <;> decide

theorem witness_StepRunsTheDecodedCommand : (pend four (.csrWrite .cmd 0x303)).host = [.csrWrite .cmd 0x303] ∧
    decodeFor (pend four (.csrWrite .cmd 0x303)).nkeys ((0x303 : BitVec 64).setWidth 32) = .ok (.ccmpEncrypt 3) ∧
    four.host = [] ∧ (Instr.ccmpEncrypt 3).wellFormed four.nkeys = true := by decide

theorem witness_CcmpSetKeyInstalls : (3 : BitVec 8).toNat < four.nkeys ∧ four.allocFail = false ∧
    (3 : BitVec 8).toNat < ({ four with allocFail := true } : State).nkeys := by decide

theorem witness_TkipSetKeyInstalls : (0 : BitVec 8).toNat < four.nkeys ∧ four.allocFail = false ∧ four.opmode = .sta ∧
    (3 : BitVec 8).toNat < ({ four with opmode := .ap } : State).nkeys ∧
    (3 : BitVec 8).toNat < ({ four with allocFail := true } : State).nkeys := by decide

theorem witness_CcmpDeleteKeyEmptiesTheSlot :
    (block [kT .ap] []).keys[(0 : BitVec 8).toNat]? = some (kT .ap) ∧ (kT .ap).cipher = .tkip ∧
    sE.keys[(0 : BitVec 8).toNat]? = some kC ∧ kC.cipher ≠ .tkip ∧
    four.keys[(3 : BitVec 8).toNat]? = some KeySlot.empty := by decide +kernel

theorem witness_TkipDeleteKeyEmptiesTheSlot :
    sE.keys[(0 : BitVec 8).toNat]? = some kC ∧ kC.cipher = .ccmp ∧
    (block [kT .ap] []).keys[(0 : BitVec 8).toNat]? = some (kT .ap) ∧ (kT .ap).cipher ≠ .ccmp ∧
    four.keys[(3 : BitVec 8).toNat]? = some KeySlot.empty := by decide +kernel

/-- The output just fits, and the counter has one value left. -/
theorem witness_CcmpEncryptProtectsTheFrame :
    ∃ s k, s = { block [k] (h24 ++ hello) with cfg := { defaultConfig with outcap := 52 } } ∧
    k = { kC with tsc := 0xFFFFFFFFFFFE } ∧ s.keys[(0 : BitVec 8).toNat]? = some k ∧ k.ctx = .ccmp rk0 ∧
    s.frame = some (h24 ++ hello) ∧ headerOk (h24 ++ hello) = true ∧ ¬ noRoom s ((h24 ++ hello).length + 16) ∧
    k.tsc ≠ BitVec.allOnes 48 :=
  ⟨_, _, rfl, rfl, by decide +kernel⟩

theorem witness_CcmpDecryptRecoversTheFrame :
    (sD.keys[(0 : BitVec 8).toNat]? = some kC ∧ kC.ctx = .ccmp rk0 ∧ sD.frame = some f1 ∧
      admissible sD f1 16 (rxPn f1) (ccmpPrsc kC f1) ∧
      (ccm rk0 (ccmNonce f1 (rxPn f1)) (ccmAuth f1) (slice f1 (hdrlen f1 + 8) (f1.length - 8)) .decrypt).2 =
        slice f1 (f1.length - 8) f1.length) ∧
    ∃ F, F = f1.set 51 0x09 ∧ (block [kC] F).frame = some F ∧ admissible (block [kC] F) F 16 (rxPn F) (ccmpPrsc kC F) ∧
      (ccm rk0 (ccmNonce F (rxPn F)) (ccmAuth F) (slice F (hdrlen F + 8) (F.length - 8)) .decrypt).2 ≠
        slice F (F.length - 8) F.length :=
  ⟨by decide +kernel, _, rfl, by decide +kernel⟩

theorem witness_TkipEncryptProtectsTheFrame :
    ∃ s F, s = block [kT .ap] F ∧ F = ht24 ++ tkipTest ∧ s.keys[(0 : BitVec 8).toNat]? = some (kT .ap) ∧
    (kT .ap).ctx = .tkip (cT .ap) ∧ s.frame = some F ∧ headerOk F = true ∧ ¬ noRoom s (F.length + 20) ∧
    (kT .ap).tsc ≠ BitVec.allOnes 48 ∧ ∃ E st, (E, st) = rc4Crypt (rc4Keysetup (frameKey (kT .ap)
      (txCache (kT .ap) (cT .ap) F 1) 1)) (F.drop (hdrlen F)) := by
  refine ⟨_, _, rfl, rfl, by decide +kernel, rfl, by decide +kernel, by decide +kernel, by decide +kernel,
    by decide +kernel, _, _, rfl⟩

/-- The cleartext of `G1` after its TKIP header (V33): body, Michael MIC, ICV. -/
def plain1 : Octets := tkipTest ++ hx 8 0xB22DF7CC3FE9DFF0 ++ hx 4 0x9CBAFAB1

/-- The cache V33's receive key mix leaves. -/
def cM (m : OpMode) : TkipCtx := { cT m with rxttak := phase1 tk0 (hx 6 0x102233445566) 0 }

/-- V31, row `IV32 = 0`, `IV16 = 1`: the RC4 key of V33's frame. -/
def key1 : Octets := hx 16 0x00200190FFDC314389A9D9D074FD20AA

theorem key_g1 : frameKey (kT .sta) (cM .sta).rxttak (rxTsc g1) = key1 ∧
    frameKey (kT .ap) (cM .ap).rxttak (rxTsc g1) = key1 ∧
    frameKey (kT .sta) (cM .sta).rxttak (rxTsc g1Bad) = key1 := by decide +kernel

theorem crypt_g1 : (rc4Crypt (rc4Keysetup key1) (g1.drop 32)).1 = plain1 := by decide +kernel

/-- RC4 is a stream: changing an octet of the input changes that octet of the output alone. -/
theorem crypt_flip (ds : Octets) : ∀ (st : Rc4) (n : Nat) (x : Octet), n < ds.length →
    (rc4Crypt st (ds.set n (oct ds n ^^^ x))).1 = (rc4Crypt st ds).1.set n (oct (rc4Crypt st ds).1 n ^^^ x) := by
  induction ds with
  | nil => intro _ _ _ h; cases h
  | cons d ds ih =>
    intro st n x h
    cases n with
    | zero =>
      simp only [rc4Crypt, oct, List.getD_cons_zero, List.set_cons_zero]
      ac_rfl
    | succ n => simpa [rc4Crypt, oct] using ih (rc4Next st).1 n x (by simpa using h)

theorem crypt_g1Bad : (rc4Crypt (rc4Keysetup key1) (g1Bad.drop 32)).1 = plain1.set 20 0xB0 := by
  have e : g1Bad.drop 32 = (g1.drop 32).set 20 (oct (g1.drop 32) 20 ^^^ 1) := by decide +kernel
  rw [e, crypt_flip _ _ _ _ (by decide +kernel), crypt_g1]
  decide +kernel

/-- The three clauses: a right frame, a wrong ICV, and a wrong MIC (the same frame on a slot of the sender's mode). -/
theorem witness_TkipDecryptRecoversTheFrame :
    (∀ m : OpMode, (block [kT m] g1).keys[(0 : BitVec 8).toNat]? = some (kT m) ∧ (kT m).ctx = .tkip (cT m) ∧
      (block [kT m] g1).frame = some g1 ∧ admissible (block [kT m] g1) g1 20 (rxTsc g1) (tkipPrsc (kT m) g1) ∧
      rxMixed (kT m) (cT m) (cM m) g1 (rxTsc g1) (tkipPrsc (kT m) g1) ∧
      (m = .sta ↔ michael ((kT m).michaelKey (cT m).rxmicOff) (pseudo g1 ++ tkipTest) = hx 8 0xB22DF7CC3FE9DFF0)) ∧
    (∃ st, (plain1, st) = rc4Crypt (rc4Keysetup key1) (g1.drop 32)) ∧ hdrlen g1 + 8 = 32 ∧
    plain1 = tkipTest ++ hx 8 0xB22DF7CC3FE9DFF0 ++ hx 4 0x9CBAFAB1 ∧
    icv (tkipTest ++ hx 8 0xB22DF7CC3FE9DFF0) = hx 4 0x9CBAFAB1 ∧
    (block [kT .sta] g1Bad).frame = some g1Bad ∧
    admissible (block [kT .sta] g1Bad) g1Bad 20 (rxTsc g1Bad) (tkipPrsc (kT .sta) g1Bad) ∧
    rxMixed (kT .sta) (cT .sta) (cM .sta) g1Bad (rxTsc g1Bad) (tkipPrsc (kT .sta) g1Bad) ∧
    (∃ st, (plain1.set 20 0xB0, st) = rc4Crypt (rc4Keysetup key1) (g1Bad.drop 32)) ∧ hdrlen g1Bad + 8 = 32 ∧
    plain1.set 20 0xB0 = tkipTest ++ hx 8 0xB22DF7CC3FE9DFF0 ++ hx 4 0x9CBAFAB0 := by
  refine ⟨fun m => ?_, fst_eq crypt_g1, by decide +kernel,
    by decide +kernel, by decide +kernel, by decide +kernel, by decide +kernel, by decide +kernel,
    fst_eq crypt_g1Bad, by decide +kernel,
    by decide +kernel⟩
  cases m <;> decide +kernel

/-- The three clauses, with `OFFSET` at `INLEN` and one above. -/
theorem witness_TkipMicComputesTheMic : ∃ F, (v32 43).frame = some F ∧ headerOk F = true ∧
    ((v32 43).opr[11].extractLsb' 0 16).toNat ≤ F.length ∧ (v32 44).frame = some F ∧
    F.length < ((v32 44).opr[11].extractLsb' 0 16).toNat ∧
    (block [] []).frame = some [] ∧ headerOk [] = false :=
  ⟨hx 24 0x080000000200000000010200000000020200000000031000 ++ hx 19 0x54686520717569636B2062726F776E20666F78,
    by decide +kernel⟩

/-- The four clauses, at the edges of the window. -/
theorem witness_MicFailureDrivesTheTracker :
    ({ four with ifflags := 1 } : State).ifflags.getLsbD 0 = true ∧
    (four.ifflags.getLsbD 0 = false ∧ four.micfailSeen = false) ∧
    ((failed .ap 6000).ifflags.getLsbD 0 = false ∧
      (failed .ap 6000).micfailTick.toNat + 60 * (failed .ap 6000).cfg.hz ≤ (failed .ap 6000).ticks.toNat) ∧
    (∀ m ∈ [OpMode.ap, OpMode.sta], (failed m 5999).ifflags.getLsbD 0 = false ∧ (failed m 5999).micfailSeen = true ∧
      (failed m 5999).ticks.toNat < (failed m 5999).micfailTick.toNat + 60 * (failed m 5999).cfg.hz ∧
      (failed m 5999).opmode = m) := by decide +kernel

/-- Every clause, for both commands; the output is one octet too long. -/
theorem witness_EncryptFailsInOrder :
    (sE.keys[(0 : BitVec 8).toNat]? = some kC ∧ kC.cipher = .ccmp ∧ kC.cipher ≠ .tkip ∧
      (block [kC] []).frame = some [] ∧ headerOk [] = false ∧ sE.frame = some (h24 ++ hello) ∧
      headerOk (h24 ++ hello) = true ∧ noRoom { sE with allocFail := true } 52 ∧
      noRoom { sE with cfg := { defaultConfig with outcap := 51 } } ((h24 ++ hello).length + 16) ∧
      ¬ noRoom sE ((h24 ++ hello).length + 16) ∧ ({ kC with tsc := BitVec.allOnes 48 } : KeySlot).tsc = BitVec.allOnes 48) ∧
    ∃ s, s = block [kT .ap] (h24 ++ hello) ∧ s.keys[(0 : BitVec 8).toNat]? = some (kT .ap) ∧ (kT .ap).cipher = .tkip ∧
      (kT .ap).cipher ≠ .ccmp ∧ s.frame = some (h24 ++ hello) ∧ ¬ noRoom s ((h24 ++ hello).length + 20) ∧
      noRoom { s with cfg := { defaultConfig with outcap := 55 } } ((h24 ++ hello).length + 20) :=
  ⟨by decide +kernel, _, rfl, by decide +kernel⟩

/-- Every clause, for both commands: one octet too short, ExtIV clear, an equal counter, one octet too long. -/
theorem witness_DecryptFailsInOrder :
    (sD.keys[(0 : BitVec 8).toNat]? = some kC ∧ kC.cipher = .ccmp ∧ sD.frame = some f1 ∧ headerOk f1 = true ∧
      hdrlen f1 + 16 ≤ f1.length ∧ (block [kC] (f1.take 39)).frame = some (f1.take 39) ∧ headerOk (f1.take 39) = true ∧
      (f1.take 39).length < hdrlen (f1.take 39) + 16 ∧ headerOk (f1.set 27 0) = true ∧ ¬ rxExtIv (f1.set 27 0) ∧
      rxExtIv f1 ∧ rxPn f1 ≤ ccmpPrsc { kC with rsc := kC.rsc.set 0 1 } f1 ∧ ccmpPrsc kC f1 < rxPn f1 ∧
      noRoom { sD with cfg := { defaultConfig with outcap := 35 } } (f1.length - 16)) ∧
    ∃ s, s = block [kT .sta] g1 ∧ s.keys[(0 : BitVec 8).toNat]? = some (kT .sta) ∧ (kT .sta).cipher = .tkip ∧
      s.frame = some g1 ∧ headerOk g1 = true ∧ hdrlen g1 + 20 ≤ g1.length ∧ (g1.take 43).length < hdrlen (g1.take 43) + 20 ∧
      ¬ rxExtIv (g1.set 27 0) ∧ rxExtIv g1 ∧ rxTsc g1 ≤ tkipPrsc { kT .sta with rsc := (kT .sta).rsc.set 0 1 } g1 ∧
      tkipPrsc (kT .sta) g1 < rxTsc g1 ∧ noRoom { s with cfg := { defaultConfig with outcap := 32 } } (g1.length - 20) :=
  ⟨by decide +kernel, _, rfl, by decide +kernel⟩

/-- Only the last octet of the frame is unwritten. -/
theorem witness_UnwrittenInputHasNoResult :
    ({ sE with inlen := 37 } : State).frame = none ∧
    ({ sE with inlen := 37 } : State).keys[(0 : BitVec 8).toNat]? = some kC ∧ kC.cipher = .ccmp ∧
    ({ block [kT .ap] [] with inlen := 1 } : State).frame = none ∧ (kT .ap).cipher = .tkip := by decide +kernel

theorem witness_FailureChangesOnlyWhatTheRuleLists :
    (∃ s t, (Instr.ccmpDeleteKey 0).wellFormed s.nkeys = true ∧ exec (.ccmpDeleteKey 0) s = .next t ∧ t.code = .badKey) ∧
    (∃ s t, (Instr.ccmpEncrypt 0).wellFormed s.nkeys = true ∧ exec (.ccmpEncrypt 0) s = .next t ∧ t.code = .badKey) ∧
    (∃ s t, (Instr.tkipDecrypt 0).wellFormed s.nkeys = true ∧ exec (.tkipDecrypt 0) s = .next t ∧ t.code = .icvFailTkip) ∧
    (∃ s t, (Instr.tkipDecrypt 0).wellFormed s.nkeys = true ∧ exec (.tkipDecrypt 0) s = .next t ∧ t.code = .micFailTkip) := by
  obtain ⟨t1, h1, c1, -⟩ := test_tkipDecrypt_stale
  obtain ⟨t2, h2, c2, -⟩ := test_tkipDecrypt_micFail
  exact ⟨⟨block [kT .ap] [], _, by decide +kernel, rfl, rfl⟩, ⟨four, _, by decide, rfl, rfl⟩,
    ⟨_, t1, by decide +kernel, h1, c1⟩, ⟨_, t2, by decide +kernel, h2, c2⟩⟩

/-- One next state of each kind, for the statements about every next state of every command: a key command, frame commands
that succeed and that fail, TKIP_MIC, and MIC_FAILURE inside the window on a full queue. -/
theorem witness_nextStates :
    (∃ t, exec (.ccmpSetKey 3) four = .next t ∧ t.code = .ok) ∧
    (∃ t, exec (.ccmpEncrypt 0) sE = .next t ∧ t.code = .ok) ∧
    (∃ t, exec (.ccmpEncrypt 0) four = .next t ∧ t.code ≠ .ok) ∧
    (∃ t, exec .tkipMic (v32 24) = .next t ∧ t.code = .ok) ∧
    (∃ t, exec .micFailure { failed .ap 5999 with evtq := List.replicate 8 ⟨.scan, 0⟩ } = .next t ∧ t.code = .ok) ∧
    ({ failed .ap 5999 with evtq := List.replicate 8 ⟨.scan, 0⟩ } : State).evtq.length = defaultConfig.evtcap ∧
    (Instr.ccmpSetKey 3).wellFormed four.nkeys = true ∧ (Instr.ccmpEncrypt 0).wellFormed sE.nkeys = true := by
  refine ⟨⟨_, rfl, rfl⟩, runs (fun t => t.code = .ok) (by decide +kernel), ⟨_, rfl, by decide⟩,
    runs (fun t => t.code = .ok) (by decide +kernel), ⟨_, rfl, rfl⟩, by decide, by decide, by decide +kernel⟩

theorem witness_CommandsEndWithTheCodesOfTheTable :
    ∃ t, (Instr.ccmpEncrypt 0).wellFormed sE.nkeys = true ∧ exec (.ccmpEncrypt 0) sE = .next t :=
  let ⟨t, h, _⟩ := witness_nextStates.2.1
  ⟨t, by decide +kernel, h⟩

theorem witness_CommandsKeepTheOperandRegisters :
    (∃ t, exec .tkipMic (v32 24) = .next t) ∧ ∃ t, exec (.ccmpEncrypt 0) sE = .next t ∧ Instr.ccmpEncrypt 0 ≠ .tkipMic :=
  let ⟨t, h, _⟩ := witness_nextStates.2.2.2.1
  let ⟨u, g, _⟩ := witness_nextStates.2.1
  ⟨⟨t, h⟩, u, g, by decide⟩

theorem witness_CommandsKeepTheHostSide : ∃ t, exec (.ccmpEncrypt 0) sE = .next t :=
  let ⟨t, h, _⟩ := witness_nextStates.2.1
  ⟨t, h⟩

theorem witness_OnlyFrameCommandsTouchTheFrames :
    (∃ t, (Instr.ccmpEncrypt 0).wellFormed sE.nkeys = true ∧ exec (.ccmpEncrypt 0) sE = .next t ∧
      isFrame (.ccmpEncrypt 0) = true ∧ t.code = .ok) ∧
    (∃ t, exec (.ccmpEncrypt 0) four = .next t ∧ t.code ≠ .ok) ∧
    (∃ t, exec (.ccmpSetKey 3) four = .next t ∧ isFrame (.ccmpSetKey 3) = false) :=
  let ⟨t, h, c⟩ := witness_nextStates.2.1
  let ⟨u, g, _⟩ := witness_nextStates.1
  ⟨⟨t, by decide +kernel, h, rfl, c⟩, witness_nextStates.2.2.1, u, g, rfl⟩

theorem witness_OnlyMicFailuresReachTheTracker :
    ∃ t, exec (.ccmpEncrypt 0) sE = .next t ∧ Instr.ccmpEncrypt 0 ≠ .micFailure ∧ t.code ≠ .micFailTkip :=
  let ⟨t, h, c⟩ := witness_nextStates.2.1
  ⟨t, h, by decide, by rw [c]; decide⟩

theorem witness_CommandsNeverClearTheFlag :
    ∃ t, exec .micFailure { failed .ap 5999 with ifflags := 1 } = .next t ∧
      ({ failed .ap 5999 with ifflags := 1 } : State).ifflags.getLsbD 0 = true := ⟨_, rfl, by decide⟩

theorem witness_EventsAreOnlyAppended :
    ∃ s t, exec .micFailure s = .next t ∧ s.evtq.length ≤ s.cfg.evtcap ∧ s.evtq.length = 7 :=
  ⟨{ failed .sta 5999 with evtq := List.replicate 7 ⟨.scan, 0⟩ }, _, rfl, by decide, rfl⟩

theorem witness_FailedCommandsKeepEveryCounter :
    ∃ t, exec (.tkipDecrypt 0) (block [kH] gH) = .next t ∧ t.code ≠ .ok ∧ (block [kH] gH).keys[0]? = some kH :=
  let ⟨t, h, c, _⟩ := test_tkipDecrypt_stale
  ⟨t, h, by rw [c]; decide, rfl⟩

theorem witness_EncryptAdvancesTheCounterByOne :
    (∃ t, exec (.ccmpEncrypt 0) sE = .next t ∧ t.code = .ok ∧ sE.keys[(0 : BitVec 8).toNat]? = some kC) ∧
    (∃ s t, exec (.tkipEncrypt 0) s = .next t ∧ t.code = .ok ∧ s.keys[(0 : BitVec 8).toNat]? = some (kT .ap)) :=
  let ⟨t, h, c⟩ := witness_nextStates.2.1
  let ⟨u, g, _, d, _⟩ := test_tkipEncrypt
  ⟨⟨t, h, c, rfl⟩, _, u, g, d, rfl⟩

/-- CCMP_DECRYPT of a data frame and of a management frame (V15), and TKIP_DECRYPT. -/
theorem witness_DecryptRaisesTheSelectedCounter :
    (∃ t, exec (.ccmpDecrypt 0) sD = .next t ∧ (t.code = .ok ∧ sD.keys[(0 : BitVec 8).toNat]? = some kC ∧
      sD.frame = some f1 ∧ isMgmt f1 = false)) ∧
    (∃ F, F = hx 24 0xC0403A010200000000010200000000020200000000012000 ++
        hx 18 0x010000200000000038258BEDE784552224B5 ∧ isMgmt F = true ∧
      ∃ t, exec (.ccmpDecrypt 0) (block [kC] F) = .next t ∧ (t.code = .ok ∧ t.csrValue .ksMgmtRsc = 1)) ∧
    (∃ s t, exec (.tkipDecrypt 0) s = .next t ∧ t.code = .ok ∧ s.keys[(0 : BitVec 8).toNat]? = some (kT .sta) ∧
      s.frame = some g1) := by
  obtain ⟨u, g, _, d, _⟩ := test_tkipDecrypt
  refine ⟨runs (fun t => t.code = .ok ∧ sD.keys[(0 : BitVec 8).toNat]? = some kC ∧ sD.frame = some f1 ∧
    isMgmt f1 = false) (by decide +kernel), ⟨_, rfl, by decide +kernel,
    runs (fun t => t.code = .ok ∧ t.csrValue .ksMgmtRsc = 1) (by decide +kernel)⟩, _, u, g, d, rfl, by decide +kernel⟩

theorem witness_TransmitAndReceiveKeepToTheirWords :
    (∃ t, exec (.ccmpEncrypt 0) sE = .next t ∧ sE.keys[(0 : BitVec 8).toNat]? = some kC) ∧
    (∃ s t, exec (.tkipDecrypt 0) s = .next t ∧ s.keys[(0 : BitVec 8).toNat]? = some (kT .sta)) :=
  let ⟨t, h, _⟩ := witness_nextStates.2.1
  let ⟨u, g, _⟩ := test_tkipDecrypt
  ⟨⟨t, h, rfl⟩, _, u, g, rfl⟩

/-- A success on two slots, with another content in the second, and a fault. -/
theorem witness_SlotsAreIndependent :
    (Instr.ccmpSetKey 0).slot? = some 0 ∧ (block [kC, kT .ap] []).keys = [kC, kT .ap] ∧
    ([kC, kC] : List KeySlot).length = (block [kC, kT .ap] []).keys.length ∧
    ([kC, kC] : List KeySlot)[(0 : BitVec 8).toNat]? = (block [kC, kT .ap] []).keys[(0 : BitVec 8).toNat]? ∧
    (∃ t, exec (.ccmpSetKey 0) (block [kC, kT .ap] []) = .next t ∧ t.code = .ok) ∧
    ∃ f, exec (.ccmpEncrypt 0) { block [kC] [] with inlen := 1 } = .fault f := by
  refine ⟨by decide, by decide +kernel, by decide +kernel, by decide +kernel,
    runs (fun t => t.code = .ok) (by decide +kernel), ?_⟩
  exact faults (by decide +kernel)

/-- A recompute (V33), and a cache that is used as it stands. -/
theorem witness_ReceiveCacheFollowsItsTest :
    ((block [kT .sta] g1).keys[(0 : BitVec 8).toNat]? = some (kT .sta) ∧ (kT .sta).ctx = .tkip (cT .sta) ∧
      (block [kT .sta] g1).frame = some g1 ∧
      admissible (block [kT .sta] g1) g1 20 (rxTsc g1) (tkipPrsc (kT .sta) g1) ∧
      rxStale (cT .sta) (rxTsc g1) (tkipPrsc (kT .sta) g1)) ∧
    (∃ t, exec (.tkipDecrypt 0) (block [kT .sta] g1) = .next t) ∧
    ((block [kH] gH).keys[(0 : BitVec 8).toNat]? = some kH ∧ kH.ctx = .tkip cH ∧ (block [kH] gH).frame = some gH ∧
      admissible (block [kH] gH) gH 20 (rxTsc gH) (tkipPrsc kH gH) ∧ ¬ rxStale cH (rxTsc gH) (tkipPrsc kH gH)) ∧
    (∃ t, exec (.tkipDecrypt 0) (block [kH] gH) = .next t) :=
  let ⟨u, g, _⟩ := test_tkipDecrypt
  let ⟨t, h, _⟩ := test_tkipDecrypt_stale
  ⟨by decide +kernel, ⟨u, g⟩, by decide +kernel, t, h⟩

/-- V11: the frame CCMP_ENCRYPT makes, given to CCMP_DECRYPT on another block. -/
theorem witness_CcmpDecryptUndoesCcmpEncrypt :
    sE.keys[(0 : BitVec 8).toNat]? = some kC ∧ kC.ctx = .ccmp rk0 ∧ sE.frame = some (h24 ++ hello) ∧
    (∃ s', exec (.ccmpEncrypt 0) sE = .next s' ∧ (s'.code = .ok ∧ memReadAll s'.outbuf 0 s'.outlen.toNat = some f1 ∧
      s'.outlen.toNat = (h24 ++ hello).length + 16)) ∧
    sD.keys[(0 : BitVec 8).toNat]? = some kC ∧ sD.frame = some f1 ∧ sD.allocFail = false ∧
    (h24 ++ hello).length ≤ sD.cfg.outcap ∧ ccmpPrsc kC (h24 ++ hello) < kC.tsc + 1 := by
  refine ⟨rfl, rfl, by decide +kernel, runs (fun s' => s'.code = .ok ∧
    memReadAll s'.outbuf 0 s'.outlen.toNat = some f1 ∧ s'.outlen.toNat = (h24 ++ hello).length + 16) (by decide +kernel),
    rfl, by decide +kernel, rfl, by decide +kernel, by decide +kernel⟩

/-- V33: an access point to a station. -/
theorem witness_TkipDecryptUndoesTkipEncrypt : ∃ s t F p1k, s = block [kT .ap] F ∧ F = ht24 ++ tkipTest ∧
    t = block [kT .sta] g1 ∧ s.keys[(0 : BitVec 8).toNat]? = some (kT .ap) ∧ s.frame = some F ∧
    (∃ s', exec (.tkipEncrypt 0) s = .next s' ∧ s'.code = .ok ∧ memReadAll s'.outbuf 0 s'.outlen.toNat = some g1 ∧
      s'.outlen.toNat = F.length + 20) ∧
    t.keys[(0 : BitVec 8).toNat]? = some (kT .sta) ∧ t.frame = some g1 ∧ t.allocFail = false ∧ F.length ≤ t.cfg.outcap ∧
    tkipPrsc (kT .sta) F < (kT .ap).tsc + 1 ∧ slice (kT .sta).key.toList 0 16 = slice (kT .ap).key.toList 0 16 ∧
    (kT .sta).michaelKey (cT .sta).rxmicOff = (kT .ap).michaelKey (cT .ap).txmicOff ∧
    p1k = phase1 (slice (kT .ap).key.toList 0 16) (slice F 10 16) (((kT .ap).tsc + 1).extractLsb' 16 32) ∧
    txCache (kT .ap) (cT .ap) F ((kT .ap).tsc + 1) = p1k ∧
    (¬ rxStale (cT .sta) ((kT .ap).tsc + 1) (tkipPrsc (kT .sta) F) → (cT .sta).rxttak = p1k) := by
  obtain ⟨u, g, o, d, l, _⟩ := test_tkipEncrypt
  exact ⟨_, _, _, _, rfl, rfl, rfl, rfl, by decide +kernel, ⟨u, g, d, o, by rw [l]; decide +kernel⟩, rfl,
    by decide +kernel, rfl, by decide +kernel, by decide +kernel, by decide +kernel, by decide +kernel, rfl,
    by decide +kernel, by decide +kernel⟩

theorem witness_AcceptedFrameIsAReplayTheSecondTime :
    (∃ t, exec (.ccmpDecrypt 0) sD = .next t ∧ t.code = .ok) ∧
    (∃ s t, exec (.tkipDecrypt 0) s = .next t ∧ t.code = .ok) :=
  let ⟨t, h, c⟩ := witness_DecryptRaisesTheSelectedCounter.1
  let ⟨u, g, _, d, _⟩ := test_tkipDecrypt
  ⟨⟨t, h, c.1⟩, _, u, g, d⟩

/-- `G1`, at the first and the last octet that may be flipped. -/
theorem witness_SingleBitFlipsFailTheIcv :
    ∃ s t, s = block [kT .sta] g1 ∧ s.keys[(0 : BitVec 8).toNat]? = some (kT .sta) ∧ (kT .sta).ctx = .tkip (cT .sta) ∧
      s.frame = some g1 ∧ admissible s g1 20 (rxTsc g1) (tkipPrsc (kT .sta) g1) ∧ exec (.tkipDecrypt 0) s = .next t ∧
      t.code ≠ .icvFailTkip ∧ hdrlen g1 + 8 ≤ 32 ∧ 52 < g1.length := by
  obtain ⟨u, g, _, d, _⟩ := test_tkipDecrypt
  exact ⟨_, u, rfl, rfl, rfl, by decide +kernel, by decide +kernel, g, by rw [d]; decide, by decide +kernel,
    by decide +kernel⟩

theorem witness_ChangedMicsFailTheAuthentication :
    sD.frame = some f1 ∧ (∃ t, exec (.ccmpDecrypt 0) sD = .next t ∧ t.code = .ok) ∧ (zeros 8).length = 8 ∧
    zeros 8 ≠ slice f1 (f1.length - 8) f1.length :=
  ⟨by decide +kernel, witness_AcceptedFrameIsAReplayTheSecondTime.1, rfl, by decide +kernel⟩

theorem witness_EveryCommandEndsInANextState :
    isFrame (.tkipSetKey 0) = false ∧ Instr.tkipSetKey 0 ≠ .tkipMic ∧
    (∀ a, a < sE.inlen.toNat → memRead sE.inbuf a ≠ none) ∧ 0 < sE.inlen.toNat := by
  refine ⟨rfl, by decide, ?_, by decide +kernel⟩
  have h : ∀ a, a < 36 → memRead sE.inbuf a ≠ none := by decide +kernel
  exact h

/-- The four header forms with the shortest and the longest header. -/
theorem witness_AadAreaIsTwoBlocks :
    headerOk h24 = true ∧ hdrlen h24 = 24 ∧ headerOk (hx 2 0x88C3 ++ zeros 34) = true ∧
    hdrlen (hx 2 0x88C3 ++ zeros 34) = 36 := by decide +kernel

/-- A QoS frame with an HT control field, at the first and the last of its four octets; with and without Address 4. -/
theorem witness_UnauthenticatedFieldsDoNotMatter : ∀ F ∈ ([hx 2 0x88C1 ++ zeros 28, hx 2 0x88C3 ++ zeros 34] : List Octets),
    headerOk F = true ∧ hasQos F = true ∧ hasHtc F = true ∧ qosOffset F + 6 = hdrlen F ∧ hdrlen F = F.length := by
  decide +kernel

theorem witness_ResetGivesTheStatedValues : (pend sE .resetEvent).host = [.resetEvent] := rfl

theorem witness_EmptySlotsRefuseFrames :
    ∃ s, s = { v32 24 with keys := List.replicate 4 KeySlot.empty } ∧
    s.keys = List.replicate s.nkeys KeySlot.empty ∧ (Instr.tkipDecrypt 3).wellFormed s.nkeys = true ∧
    isFrame (.tkipDecrypt 3) = true ∧ (Instr.ccmpDeleteKey 0).wellFormed s.nkeys = true ∧
    Instr.tkipMic.wellFormed s.nkeys = true ∧
    ∃ F, s.frame = some F ∧ headerOk F = true ∧ (s.opr[11].extractLsb' 0 16).toNat ≤ F.length :=
  ⟨_, rfl, by decide +kernel, by decide +kernel, rfl, by decide +kernel, by decide +kernel,
    hx 24 0x080000000200000000010200000000020200000000031000 ++ hx 19 0x54686520717569636B2062726F776E20666F78,
    by decide +kernel⟩

theorem witness_WritesOfReadOnlyRegistersAreIgnored :
    (pend four (.csrWrite .status 0xFF)).host = [.csrWrite .status 0xFF] ∧
    (pend four (.oprWrite 14 1)).host = [.oprWrite 14 1] ∧ 14 ≤ (14 : Fin 16).val ∧
    (pend four (.oprWrite 13 1)).host = [.oprWrite 13 1] ∧ (13 : Fin 16).val < 14 := by decide

/-- On both sides of the clamp. -/
theorem witness_InlenIsClamped : ∀ v ∈ ([2048, 2049, 0x1FFFF] : List (BitVec 64)),
    (pend four (.csrWrite .inlen v)).ParamsOk ∧ (pend four (.csrWrite .inlen v)).host = [.csrWrite .inlen v] := by
  intro v _
  have h : (pend four (.csrWrite .inlen 0)).ParamsOk := by decide
  exact ⟨h, rfl⟩

theorem witness_EvtPopTakesTheOldest :
    (pend four (.csrRead .evtPop)).host = [.csrRead .evtPop] ∧ (pend four (.csrRead .evtPop)).evtq = [] ∧
    ∃ s, s = { pend four (.csrRead .evtPop) with evtq := [⟨.eapolKeyReq, 5⟩, ⟨.scan, 0⟩] } ∧
      s.host = [.csrRead .evtPop] ∧ s.evtq = [⟨.eapolKeyReq, 5⟩, ⟨.scan, 0⟩] := ⟨rfl, rfl, _, rfl, rfl, rfl⟩

/-- No such slot, an empty slot, and the two ciphers. -/
theorem witness_KeyWindowShowsTheSelectedSlot :
    (∀ r ∈ [Csr.ksInfo, .ksTsc, .ksRsc, .ksMgmtRsc], ∀ s ∈ [four, { four with slotsel := 4 }, sE, block [kT .ap] []],
      (pend s (.csrRead r)).host = [.csrRead r]) ∧
    ({ four with slotsel := 4 } : State).nkeys ≤ ({ four with slotsel := 4 } : State).slotsel.toNat ∧
    (∃ k, four.keys[four.slotsel.toNat]? = some k ∧ k.cipher = .none) ∧
    (sE.keys[sE.slotsel.toNat]? = some kC ∧ kC.cipher ≠ .none ∧ kC.ctx = .ccmp rk0) ∧
    ((block [kT .ap] []).keys[(block [kT .ap] []).slotsel.toNat]? = some (kT .ap) ∧ (kT .ap).cipher ≠ .none ∧
      (kT .ap).ctx = .tkip (cT .ap)) :=
  ⟨fun _ _ _ _ => rfl, by decide, ⟨KeySlot.empty, rfl, rfl⟩, ⟨rfl, by decide +kernel, rfl⟩, rfl, by decide, rfl⟩

/-- The flag set, and a write that clears it (10 R29). -/
theorem witness_HostWritesStoreTheirRegisters :
    ∀ r ∈ [Csr.ifflags, .opmode, .slotsel, .tidsel], ∀ v ∈ ([0, 1, 0xFFFFFFFFFFFFFFFF] : List (BitVec 64)),
      (pend { four with ifflags := 1 } (.csrWrite r v)).host = [.csrWrite r v] := fun _ _ _ _ => rfl

/-- 10 R29: the host's write clears COUNTERMEASURES_ACTIVE and keeps what it writes to the inert bits. -/
theorem test_clearFlag : (after (step (pend { four with ifflags := 1 } (.csrWrite .ifflags 0xF0000002)))).map
    (fun t => (t.countermeasuresActive, t.ifflags)) = some (false, 0xF0000002) := by decide +kernel

theorem witness_RegisterReadsReturnTheirContent :
    (∀ r : Csr, (pend four (.csrRead r)).host = [.csrRead r]) ∧ ∀ j : Fin 16, (pend four (.oprRead j)).host = [.oprRead j] :=
  ⟨fun _ => rfl, fun _ => rfl⟩

/-- Each kind of read, at the last octet of a buffer. -/
theorem witness_RepeatedReadsAgree :
    (∀ a ∈ ([.csrRead .ticks, .oprRead 15, .inbufRead 35, .outbufRead 2047] : List HostAccess),
      ({ sE with host := [a, a] } : State).host = [a, a]) ∧
    35 < sE.cfg.incap ∧ memRead sE.inbuf 35 ≠ none ∧ 2047 < sE.cfg.outcap :=
  ⟨fun _ _ => rfl, by decide +kernel, by decide +kernel, by decide +kernel⟩

theorem witness_StatusReadsCodeAndOutValid : (pend four (.csrRead .status)).host = [.csrRead .status] := rfl

/-- The last octets of `INBUF`. -/
theorem witness_InbufWriteStoresExactlyItsOctets :
    (pend four (.inbufWrite 2046 [1, 2])).host = [.inbufWrite 2046 [1, 2]] ∧
    2046 + ([1, 2] : Octets).length ≤ (pend four (.inbufWrite 2046 [1, 2])).cfg.incap := by decide

/-- The last octet of `OUTBUF`, without a value and with one. -/
theorem witness_OutbufReadsReturnTheOutputFrame :
    (pend four (.outbufRead 2047)).host = [.outbufRead 2047] ∧ 2047 < (pend four (.outbufRead 2047)).cfg.outcap ∧
    memRead (pend four (.outbufRead 2047)).outbuf 2047 = none ∧
    memRead ({ pend four (.outbufRead 2047) with outbuf := [(2047, 7)] } : State).outbuf 2047 = some 7 := by decide

/-- The block about to encrypt meets the whole invariant and steps. -/
theorem witness_StepKeepsTheInvariant : ∃ s t, s = pend sE (.csrWrite .cmd 0x003) ∧ s.Inv ∧ step s = .next t ∧
    t.code = .ok := by
  obtain ⟨t, h, c⟩ := runs (r := step (pend sE (.csrWrite .cmd 0x003))) (fun t => t.code = .ok) (by decide +kernel)
  refine ⟨_, t, rfl, ⟨by decide +kernel, by decide +kernel, by decide +kernel, ?_, by decide +kernel⟩, h, c⟩
  intro k hk
  have : k = kC := by simpa [pend, sE, block] using hk
  subst this
  exact ⟨by decide +kernel, by decide +kernel⟩

/-- A TKIP slot is coherent as well. -/
theorem witness_tkipSlotIsCoherent : (kT .ap).Coherent ∧ (kT .sta).Coherent :=
  ⟨⟨by decide, by decide +kernel, rfl⟩, ⟨by decide, by decide +kernel, rfl⟩⟩

theorem witness_StepKeepsTheBuffers : ∃ s t, s.BuffersOk ∧ s.LengthsOk ∧ step s = .next t :=
  let ⟨s, t, _, i, h, _⟩ := witness_StepKeepsTheInvariant
  ⟨s, t, i.2.1, i.2.2.1, h⟩

theorem witness_StepKeepsTheSlotsCoherent : ∃ s t, s.SlotsOk ∧ step s = .next t :=
  let ⟨s, t, _, i, h, _⟩ := witness_StepKeepsTheInvariant
  ⟨s, t, i.2.2.2.1, h⟩

theorem witness_StepKeepsTheTrackerAndTheParameters : ∃ s t, s.TrackerOk ∧ step s = .next t :=
  let ⟨s, t, _, i, h, _⟩ := witness_StepKeepsTheInvariant
  ⟨s, t, i.2.2.2.2, h⟩

end Sys2Proof.Tests
end

section
/-! SUPPORT. What a command can end as: one relation for all ten, from which every fact about "every command and every
next state" is a case split (10 R22, R43, R50; 60 R322). -/

open Sys2Proof Sys2Proof.Machine Sys2Proof.Claims

namespace Sys2Proof.Proofs

/-! ### The MIC-failure handler, field by field -/

/-- A field that is none of the countermeasures state and not the queue is kept by the handler (46 R300). -/
theorem handler_keeps {α : Type} (f : State → α) (s : State) (tsc : BitVec 48)
    (hf : ∀ q fl tk ts sn,
      f { s with evtq := q, ifflags := fl, micfailTick := tk, micfailTsc := ts, micfailSeen := sn } = f s) :
    f (s.handler tsc) = f s := by
  obtain ⟨q, fl, tk, ts, sn, h⟩ := handler_eq s tsc
  rw [h, hf]

section
variable (s : State) (tsc : BitVec 48)

@[simp] theorem handler_opr : (s.handler tsc).opr = s.opr := handler_keeps State.opr s tsc fun _ _ _ _ _ => rfl
@[simp] theorem handler_outValid : (s.handler tsc).outValid = s.outValid :=
  handler_keeps State.outValid s tsc fun _ _ _ _ _ => rfl
@[simp] theorem handler_inlen : (s.handler tsc).inlen = s.inlen := handler_keeps State.inlen s tsc fun _ _ _ _ _ => rfl
@[simp] theorem handler_outlen : (s.handler tsc).outlen = s.outlen :=
  handler_keeps State.outlen s tsc fun _ _ _ _ _ => rfl
@[simp] theorem handler_opmode : (s.handler tsc).opmode = s.opmode :=
  handler_keeps State.opmode s tsc fun _ _ _ _ _ => rfl
@[simp] theorem handler_slotsel : (s.handler tsc).slotsel = s.slotsel :=
  handler_keeps State.slotsel s tsc fun _ _ _ _ _ => rfl
@[simp] theorem handler_tidsel : (s.handler tsc).tidsel = s.tidsel :=
  handler_keeps State.tidsel s tsc fun _ _ _ _ _ => rfl
@[simp] theorem handler_keys : (s.handler tsc).keys = s.keys := handler_keeps State.keys s tsc fun _ _ _ _ _ => rfl
@[simp] theorem handler_inbuf : (s.handler tsc).inbuf = s.inbuf := handler_keeps State.inbuf s tsc fun _ _ _ _ _ => rfl
@[simp] theorem handler_outbuf : (s.handler tsc).outbuf = s.outbuf :=
  handler_keeps State.outbuf s tsc fun _ _ _ _ _ => rfl
@[simp] theorem handler_ticks : (s.handler tsc).ticks = s.ticks := handler_keeps State.ticks s tsc fun _ _ _ _ _ => rfl
@[simp] theorem handler_allocFail : (s.handler tsc).allocFail = s.allocFail :=
  handler_keeps State.allocFail s tsc fun _ _ _ _ _ => rfl
@[simp] theorem handler_cfg : (s.handler tsc).cfg = s.cfg := handler_keeps State.cfg s tsc fun _ _ _ _ _ => rfl
@[simp] theorem handler_host : (s.handler tsc).host = s.host := handler_keeps State.host s tsc fun _ _ _ _ _ => rfl
@[simp] theorem handler_rdata : (s.handler tsc).rdata = s.rdata := handler_keeps State.rdata s tsc fun _ _ _ _ _ => rfl

end

/-- The handler leaves `IFFLAGS` alone or, for an access point, sets bit 0 (46 R304, R305). -/
theorem handler_ifflags (s : State) (tsc : BitVec 48) :
    (s.handler tsc).ifflags = s.ifflags ∨ (s.opmode = .ap ∧ (s.handler tsc).ifflags = s.ifflags ||| 1) := by
  rcases handler_cases s tsc with ⟨-, h⟩ | ⟨-, -, h⟩ | ⟨-, -, h⟩
  · exact .inl (by rw [h])
  · exact .inl (by rw [h]; rfl)
  · obtain ⟨q, hq⟩ := escalate_eq s tsc
    rw [h, State.recordFailure_ifflags, hq]
    by_cases hm : s.opmode = .ap <;> simp [hm]

/-! ### What a frame command writes into its slot -/

/-- A TKIP context after a transmit command: only the transmit cache and the RC4 engine differ (10 R43). -/
structure TransmitWrite (c c' : TkipCtx) : Prop where
  same : c' = { c with txttak := c'.txttak, txttakOk := c'.txttakOk, rc4 := c'.rc4 }
  table : c'.rc4.S.length = 256

/-- A TKIP context after a receive command: only the receive cache and the RC4 engine differ (10 R43). -/
structure ReceiveWrite (c c' : TkipCtx) : Prop where
  same : c' = { c with rxttak := c'.rxttak, rxttakOk := c'.rxttakOk, rc4 := c'.rc4 }
  table : c'.rc4.S.length = 256

/-- How a frame command can leave its slot when it writes it (42 R188, R190; 44 R243, R247). -/
inductive SlotWrite : Instr → KeySlot → KeySlot → Prop
  | ccmpSent {n k rk} (hc : k.ctx = .ccmp rk) : SlotWrite (.ccmpEncrypt n) k { k with tsc := k.tsc + 1 }
  | ccmpReceived {n k rk} (hc : k.ctx = .ccmp rk) (sel : CounterSel) (pn : BitVec 48) :
      SlotWrite (.ccmpDecrypt n) k (k.commit sel pn)
  | tkipSent {n k c c'} (hc : k.ctx = .tkip c) (hw : TransmitWrite c c') :
      SlotWrite (.tkipEncrypt n) k { k with tsc := k.tsc + 1, ctx := .tkip c' }
  | tkipReceived {n k c c'} (hc : k.ctx = .tkip c) (hw : ReceiveWrite c c') (t : BitVec 4) (tsc : BitVec 48) :
      SlotWrite (.tkipDecrypt n) k (({ k with ctx := .tkip c' } : KeySlot).commit (.tid t) tsc)
  | tkipRejected {n k c c'} (hc : k.ctx = .tkip c) (hw : ReceiveWrite c c') :
      SlotWrite (.tkipDecrypt n) k { k with ctx := .tkip c' }

/-- Only frame commands write a slot this way. -/
theorem SlotWrite.isFrame {i : Instr} {k k' : KeySlot} (h : SlotWrite i k k') : isFrame i = true := by
  cases h <;> rfl

/-- Everything a command that answers a next state can have done to the state `s`. -/
inductive Ends (s : State) : Instr → State → Prop
  | illegal {i n} (hn : i.slot? = some n) (hk : s.keys[n.toNat]? = none) : Ends s i s.illegal
  | frameFailed {i c} (hf : isFrame i = true) (hok : c ≠ .ok) : Ends s i (s.raise .frame c)
  | otherFailed {i c} (hf : isFrame i = false) (hok : c ≠ .ok) : Ends s i (s.raise .other c)
  | ccmpInstalled {n} : Ends s (.ccmpSetKey n) ((s.setSlot n.toNat s.ccmpInstall).setCode .ok)
  | tkipInstalled {n} : Ends s (.tkipSetKey n) ((s.drawFree.setSlot n.toNat s.tkipInstall).setCode .ok)
  | ccmpDeleted {n} : Ends s (.ccmpDeleteKey n) ((s.setSlot n.toNat KeySlot.empty).setCode .ok)
  | tkipDeleted {n} : Ends s (.tkipDeleteKey n) ((s.setSlot n.toNat KeySlot.empty).setCode .ok)
  | delivered {i n k k'} (hn : i.slot? = some n) (hk : s.keys[n.toNat]? = some k) (hw : SlotWrite i k k')
      (out : Octets) : Ends s i ((s.setSlot n.toNat k').deliver out)
  | icvFailed {i n k k'} (hn : i.slot? = some n) (hk : s.keys[n.toNat]? = some k) (hw : SlotWrite i k k') :
      Ends s i ((s.setSlot n.toNat k').raise .frame .icvFailTkip)
  | micFailed {i n k k'} (hn : i.slot? = some n) (hk : s.keys[n.toNat]? = some k) (hw : SlotWrite i k k')
      (tsc : BitVec 48) : Ends s i (((s.setSlot n.toNat k').handler tsc).raise .frame .micFailTkip)
  | micComputed (mic : Octets) : Ends s .tkipMic ((s.setMicout mic).setCode .ok)
  | micReported : Ends s .micFailure ((s.handler s.tscIn).setCode .ok)

/-- The transmit key mix touches the transmit cache alone (43 R229). -/
theorem txMix_transmitWrite (tk : Octets) (c : TkipCtx) (F : Octets) (tsc : BitVec 48) (st : Rc4)
    (h : st.S.length = 256) : TransmitWrite c { txMix tk c F tsc with rc4 := st } := by
  refine ⟨?_, h⟩
  unfold txMix
  split <;> rfl

/-- The receive key mix touches the receive cache alone (43 R230), and so does the validity flag set after it. -/
theorem rxMix_receiveWrite (tk : Octets) (c : TkipCtx) (F : Octets) (tsc prsc : BitVec 48) (st : Rc4) (ok : Bool)
    (h : st.S.length = 256) : ReceiveWrite c { rxMix tk c F tsc prsc with rc4 := st, rxttakOk := ok } := by
  refine ⟨?_, h⟩
  unfold rxMix
  split <;> rfl

/-- The RC4 engine a frame leaves behind has its 256 octets (41 R156, R157). -/
theorem rc4Frame_table (key data : Octets) : (rc4Crypt (rc4Keysetup key) data).2.S.length = 256 := by
  rw [rc4Crypt_table, rc4Keysetup_table]

theorem ccmpEncrypt_ends {n : BitVec 8} {s t : State} (h : execCcmpEncrypt n s = .next t) :
    Ends s (.ccmpEncrypt n) t := by
  rcases execCcmpEncrypt_next h with ⟨hk, rfl⟩ | ⟨_, -, -, rfl⟩ | ⟨k, rk, F, hk, hc, -, h⟩
  · exact .illegal rfl hk
  · exact .frameFailed rfl (by decide)
  rcases ccmpEncryptFrame_next h with ⟨-, rfl⟩ | ⟨-, -, rfl⟩ | ⟨-, -, -, rfl⟩ | ⟨-, -, -, rfl⟩
  · exact .frameFailed rfl (by decide)
  · exact .frameFailed rfl (by decide)
  · exact .frameFailed rfl (by decide)
  · exact .delivered rfl hk (.ccmpSent hc) _

theorem ccmpDecrypt_ends {n : BitVec 8} {s t : State} (h : execCcmpDecrypt n s = .next t) :
    Ends s (.ccmpDecrypt n) t := by
  rcases execCcmpDecrypt_next h with ⟨hk, rfl⟩ | ⟨_, -, -, rfl⟩ | ⟨k, rk, F, hk, hc, -, h⟩
  · exact .illegal rfl hk
  · exact .frameFailed rfl (by decide)
  rcases ccmpDecryptFrame_next h with ⟨c, hmem, rfl⟩ | ⟨-, -, -, -, -, -, rfl⟩
  · exact .frameFailed rfl (by rintro rfl; simp at hmem)
  · exact .delivered rfl hk (.ccmpReceived hc _ _) _

theorem tkipEncrypt_ends {n : BitVec 8} {s t : State} (h : execTkipEncrypt n s = .next t) :
    Ends s (.tkipEncrypt n) t := by
  rcases execTkipEncrypt_next h with ⟨hk, rfl⟩ | ⟨_, -, -, rfl⟩ | ⟨k, c, F, hk, hc, -, h⟩
  · exact .illegal rfl hk
  · exact .frameFailed rfl (by decide)
  rcases tkipEncryptFrame_next h with ⟨-, rfl⟩ | ⟨-, -, rfl⟩ | ⟨-, -, -, rfl⟩ | ⟨-, -, -, e, rfl, rfl⟩
  · exact .frameFailed rfl (by decide)
  · exact .frameFailed rfl (by decide)
  · exact .frameFailed rfl (by decide)
  · exact .delivered rfl hk (.tkipSent hc (txMix_transmitWrite _ _ _ _ _ (rc4Frame_table _ _))) _

theorem tkipDecrypt_ends {n : BitVec 8} {s t : State} (h : execTkipDecrypt n s = .next t) :
    Ends s (.tkipDecrypt n) t := by
  rcases execTkipDecrypt_next h with ⟨hk, rfl⟩ | ⟨_, -, -, rfl⟩ | ⟨k, c, F, hk, hc, -, h⟩
  · exact .illegal rfl hk
  · exact .frameFailed rfl (by decide)
  rcases tkipDecryptFrame_next h with ⟨c', hmem, rfl⟩ | ⟨-, -, -, -, -, h⟩
  · exact .frameFailed rfl (by rintro rfl; simp at hmem)
  have hw := fun st ok => rxMix_receiveWrite k.tk c F (tkipTsc (cipherHeader F)) (k.counter (tkipSel F)) st ok
  obtain ⟨e, rfl, ⟨-, rfl⟩ | ⟨-, -, rfl⟩ | ⟨-, -, rfl⟩⟩ := tkipVerify_next h
  · exact .icvFailed rfl hk (.tkipRejected hc (hw _ _ (rc4Frame_table _ _)))
  · exact .micFailed rfl hk (.tkipRejected hc (hw _ _ (rc4Frame_table _ _))) _
  · exact .delivered rfl hk (.tkipReceived hc (hw _ _ (rc4Frame_table _ _)) _ _) _

/-- Every next state of every command is one of the ends of `Ends`. -/
theorem exec_ends {i : Instr} {s t : State} (h : exec i s = .next t) : Ends s i t := by
  cases i with
  | ccmpSetKey n =>
    rcases execCcmpSetKey_next h with ⟨hk, rfl⟩ | ⟨_, -, -, rfl⟩ | ⟨_, -, -, rfl⟩
    · exact .illegal rfl hk
    · exact .otherFailed rfl (by decide)
    · exact .ccmpInstalled
  | ccmpDeleteKey n =>
    rcases execCcmpDeleteKey_next h with ⟨hk, rfl⟩ | ⟨_, -, -, rfl⟩ | ⟨_, -, -, rfl⟩
    · exact .illegal rfl hk
    · exact .otherFailed rfl (by decide)
    · exact .ccmpDeleted
  | ccmpEncrypt n => exact ccmpEncrypt_ends h
  | ccmpDecrypt n => exact ccmpDecrypt_ends h
  | tkipSetKey n =>
    rcases execTkipSetKey_next h with ⟨hk, rfl⟩ | ⟨_, -, -, rfl⟩ | ⟨_, -, -, rfl⟩
    · exact .illegal rfl hk
    · exact .otherFailed rfl (by decide)
    · exact .tkipInstalled
  | tkipDeleteKey n =>
    rcases execTkipDeleteKey_next h with ⟨hk, rfl⟩ | ⟨_, -, -, rfl⟩ | ⟨_, -, -, rfl⟩
    · exact .illegal rfl hk
    · exact .otherFailed rfl (by decide)
    · exact .tkipDeleted
  | tkipEncrypt n => exact tkipEncrypt_ends h
  | tkipDecrypt n => exact tkipDecrypt_ends h
  | tkipMic =>
    obtain ⟨F, -, ⟨-, rfl⟩ | ⟨-, -, rfl⟩⟩ := execTkipMic_next h
    · exact .otherFailed rfl (by decide)
    · exact .micComputed _
  | micFailure => cases h; exact .micReported

end Sys2Proof.Proofs
end

section
/-! SUPPORT. Every step keeps every key slot coherent (10 R41, R48, R49, R51). -/

open Sys2Proof Sys2Proof.Machine Sys2Proof.Claims

namespace Sys2Proof.Proofs

/-! ### The octets laid over the operand registers -/

/-- A string laid over registers has four octets for each (10 R21). -/
@[simp] theorem flatMap_le32Bytes_length (l : List (BitVec 32)) : (l.flatMap le32Bytes).length = 4 * l.length := by
  induction l with
  | nil => rfl
  | cons v l ih => simp [ih]; omega

/-- `KEYIN` has 32 octets (10 R21). -/
@[simp] theorem keyin_length (s : State) : s.keyin.length = 32 := by simp [State.keyin, State.oprOctets]

/-- A key field holds the 32 octets it was made of (10 R41). -/
theorem keyField_toList {K : Octets} (h : K.length = 32) : (keyField K).toList = K := by
  apply List.ext_getElem
  · simp [h]
  · intro i h₁ h₂
    simp [keyField, oct, List.getD_eq_getElem?_getD, List.getElem?_eq_getElem h₂]

/-! ### Which writes keep a slot coherent -/

theorem empty_coherent : KeySlot.empty.Coherent := rfl

/-- CCMP_SET_KEY installs the schedule of the key it stores, above 16 zero octets (42 R180). -/
theorem ccmpInstall_coherent (s : State) : s.ccmpInstall.Coherent := by
  have hl : (slice s.keyin 0 16).length = 16 := by simp [slice_length]
  have hkey : s.ccmpInstall.key.toList = slice s.keyin 0 16 ++ zeros 16 := keyField_toList (by simp [hl])
  refine ⟨?_, ?_⟩
  · have htk : s.ccmpInstall.tk = slice s.keyin 0 16 := by
      rw [KeySlot.tk, hkey, slice, List.drop_zero, List.take_left' hl]
    rw [htk]
  · rw [hkey, slice, List.drop_left' hl, List.take_of_length_le (by simp)]

/-- TKIP_SET_KEY latches the two Michael offsets apart (44 R241). -/
theorem tkipInstall_coherent (s : State) : s.tkipInstall.Coherent := by
  have hoff : ∀ m : OpMode, txMicOff m ≠ rxMicOff m := fun m => by cases m <;> decide
  exact ⟨hoff s.opmode, rc4Free_table _, rfl⟩

/-- Committing a receive counter leaves the key and the context alone, and the management counter too unless that is the
counter selected (45 R285). -/
theorem commit_coherent_of_ccmp {k : KeySlot} {rk : List Block} (hc : k.ctx = .ccmp rk) (h : k.Coherent)
    (sel : CounterSel) (pn : BitVec 48) : (k.commit sel pn).Coherent := by
  cases sel <;> simpa only [KeySlot.Coherent, KeySlot.commit, KeySlot.tk, hc] using h

/-- A TKIP slot stays coherent while the Michael offsets and the management counter stay and the RC4 table is full. -/
theorem coherent_of_tkip {k k' : KeySlot} {c c' : TkipCtx} (hc : k.ctx = .tkip c) (h : k.Coherent)
    (hc' : k'.ctx = .tkip c') (htx : c'.txmicOff = c.txmicOff) (hrx : c'.rxmicOff = c.rxmicOff)
    (htable : c'.rc4.S.length = 256) (hmgmt : k'.mgmtRsc = k.mgmtRsc) : k'.Coherent := by
  simp only [KeySlot.Coherent, hc] at h
  obtain ⟨hoff, -, hzero⟩ := h
  simp only [KeySlot.Coherent, hc']
  exact ⟨by rw [htx, hrx]; exact hoff, htable, hmgmt.trans hzero⟩

/-- A frame command leaves a coherent slot coherent: it keeps the key, the CCMP schedule and the Michael offsets, and
the RC4 table stays full (10 R43). -/
theorem SlotWrite.coherent {i : Instr} {k k' : KeySlot} (h : SlotWrite i k k') (hk : k.Coherent) : k'.Coherent := by
  cases h with
  | ccmpSent hc => simpa only [KeySlot.Coherent, KeySlot.tk, hc] using hk
  | ccmpReceived hc sel pn => exact commit_coherent_of_ccmp hc hk sel pn
  | tkipSent hc hw =>
    exact coherent_of_tkip hc hk rfl (by rw [hw.same]) (by rw [hw.same]) hw.table rfl
  | tkipReceived hc hw t tsc =>
    exact coherent_of_tkip hc hk rfl (by rw [hw.same]) (by rw [hw.same]) hw.table rfl
  | tkipRejected hc hw =>
    exact coherent_of_tkip hc hk rfl (by rw [hw.same]) (by rw [hw.same]) hw.table rfl

/-! ### The slot file -/

/-- The slots are as coherent as those of any state with the same slot file. -/
theorem slotsOk_of_keys {s t : State} (h : t.keys = s.keys) (hs : s.SlotsOk) : t.SlotsOk := by
  rw [State.SlotsOk, h]; exact hs

/-- Writing a coherent slot keeps every slot coherent. -/
theorem slotsOk_of_set {s t : State} {n : Nat} {k : KeySlot} (h : t.keys = s.keys.set n k) (hs : s.SlotsOk)
    (hk : k.Coherent) : t.SlotsOk := by
  intro k' hk'
  rw [h] at hk'
  rcases List.mem_or_eq_of_mem_set hk' with hmem | rfl
  · exact hs k' hmem
  · exact hk

/-- Every command keeps the slots coherent. -/
theorem Ends.slotsOk {i : Instr} {s t : State} (h : Ends s i t) (hs : s.SlotsOk) : t.SlotsOk := by
  have read : ∀ {n : Nat} {k : KeySlot}, s.keys[n]? = some k → k.Coherent := fun hk => hs _ (List.mem_of_getElem? hk)
  cases h with
  | illegal | frameFailed | otherFailed | micComputed | micReported => exact slotsOk_of_keys (by simp) hs
  | ccmpInstalled => exact slotsOk_of_set rfl hs (ccmpInstall_coherent s)
  | tkipInstalled => exact slotsOk_of_set rfl hs (tkipInstall_coherent s)
  | ccmpDeleted => exact slotsOk_of_set rfl hs empty_coherent
  | tkipDeleted => exact slotsOk_of_set rfl hs empty_coherent
  | delivered _ hk hw => exact slotsOk_of_set rfl hs (hw.coherent (read hk))
  | icvFailed _ hk hw => exact slotsOk_of_set rfl hs (hw.coherent (read hk))
  | micFailed _ hk hw => exact slotsOk_of_set (handler_keys _ _) hs (hw.coherent (read hk))

/-- A host write of a register keeps the slot file (10 R24). -/
@[simp] theorem csrWrite_keys (s : State) (r : Csr) (v : BitVec 64) : (s.csrWrite r v).keys = s.keys := by
  cases r <;> rfl

/-- A host read of a register keeps the slot file (10 R24, R34). -/
@[simp] theorem csrRead_keys (s : State) (r : Csr) : (s.csrRead r).keys = s.keys := by
  unfold State.csrRead; split <;> rfl

/-- A host write of an operand register keeps the slot file (10 R21). -/
@[simp] theorem oprWrite_keys (s : State) (i : Fin 16) (v : BitVec 32) : (s.oprWrite i v).keys = s.keys := by
  unfold State.oprWrite; split <;> rfl

/-- A host read of an operand register keeps the slot file (10 R21). -/
@[simp] theorem oprRead_keys (s : State) (i : Fin 16) : (s.oprRead i).keys = s.keys := rfl

/-- After a reset event every slot is empty (70 R360). -/
theorem applyReset_slotsOk (s : State) : s.applyReset.SlotsOk := fun k hk => by
  have : k = KeySlot.empty := List.eq_of_mem_replicate hk
  rw [this]; exact empty_coherent

/-- Settles O58: a command keeps every slot coherent by `Ends.slotsOk`, the reset event empties them all, and no other
host access writes a slot. -/
theorem stepKeepsTheSlotsCoherent : Obligations.StepKeepsTheSlotsCoherent := by
  intro s t hs h
  rcases step_next h with ⟨-, rfl⟩ | ⟨a, rest, u, -, rfl, h⟩
  · exact hs
  obtain ⟨_, _, -, -, h⟩ | h := h
  · exact (exec_ends h).slotsOk hs
  rcases h with ⟨_, _, -, -, rfl⟩ | ⟨_, _, -, -, rfl⟩ | ⟨_, -, rfl⟩ | ⟨_, _, -, rfl⟩ | ⟨_, -, rfl⟩ | ⟨_, _, -, -, rfl⟩ |
    ⟨_, _, -, -, rfl⟩ | ⟨_, _, -, -, rfl⟩ | ⟨_, -, -, -, rfl⟩ | ⟨_, -, rfl⟩ | ⟨_, -, rfl⟩ | ⟨-, rfl⟩
  on_goal 12 => exact applyReset_slotsOk _
  all_goals exact slotsOk_of_keys (by simp) hs

end Sys2Proof.Proofs
end

section
/-! SUPPORT. What no command does: operand registers, the host's side, the frames, `IFFLAGS` (10 R22, R26 to R30). -/

open Sys2Proof Sys2Proof.Machine Sys2Proof.Claims

namespace Sys2Proof.Proofs

variable {i : Instr} {s t : State}

/-- A legal command never ends as ILLEGAL (30 R92). -/
theorem slot_exists {n : BitVec 8} (hw : i.wellFormed s.nkeys = true) (hn : i.slot? = some n) :
    s.keys[n.toNat]? ≠ none := by
  have hlt : n.toNat < s.nkeys := by simpa [Instr.wellFormed, hn] using hw
  simp [List.getElem?_eq_getElem hlt]

/-- MICOUT is `OPR[14..15]`, so a write of it keeps `OPR[0..13]` (10 R21). -/
theorem setMicout_opr_low (v : Octets) {j : Fin 16} (hj : j.val < 14) : (s.setMicout v).opr[j] = s.opr[j] := by
  have h14 : 14 ≠ j.val := by omega
  have h15 : 15 ≠ j.val := by omega
  simp [h14, h15]

/-- Every end but a computed MIC keeps all operand registers (10 R22). -/
theorem Ends.opr (h : Ends s i t) :
    t.opr = s.opr ∨ (i = .tkipMic ∧ t.code = .ok ∧ ∃ mic, t.opr = (s.setMicout mic).opr) := by
  cases h with
  | micComputed mic => exact .inr ⟨rfl, rfl, mic, rfl⟩
  | micReported => exact .inl (handler_opr _ _)
  | micFailed => exact .inl (handler_opr _ _)
  | _ => exact .inl rfl

/-- Settles O21. -/
theorem commandsKeepTheOperandRegisters : Obligations.CommandsKeepTheOperandRegisters := by
  intro i s t h
  rcases (exec_ends h).opr with heq | ⟨rfl, hok, mic, heq⟩
  · exact ⟨fun j _ => by rw [heq], fun _ => heq⟩
  · refine ⟨fun j hj => ?_, fun hne => ?_⟩
    · simp only [heq]
      exact setMicout_opr_low mic hj
    · rcases hne with hi | hc
      · exact absurd rfl hi
      · exact absurd hok hc

/-- What a command never writes (10 R30, R33, R36; 70 R363). -/
structure HostSideKept (s t : State) : Prop where
  opmode : t.opmode = s.opmode
  slotsel : t.slotsel = s.slotsel
  tidsel : t.tidsel = s.tidsel
  inbuf : t.inbuf = s.inbuf
  ticks : t.ticks = s.ticks
  allocFail : t.allocFail = s.allocFail
  cfg : t.cfg = s.cfg
  nkeys : t.nkeys = s.nkeys
  host : t.host = s.host
  rdata : t.rdata = s.rdata

/-- Every end of a command keeps the host's side. -/
theorem Ends.hostSideKept (h : Ends s i t) : HostSideKept s t := by
  cases h
  all_goals constructor <;> simp [State.nkeys]

/-- Settles O22. -/
theorem commandsKeepTheHostSide : Obligations.CommandsKeepTheHostSide := by
  intro i s t h
  obtain ⟨hop, hsl, htid, hin, htk, hal, hcfg, hnk, hho, hrd⟩ := (exec_ends h).hostSideKept
  exact ⟨hop, hsl, htid, fun a => by rw [hin], htk, hal, hcfg, hnk, hho, hrd⟩

/-- A legal frame command fails with the three frame fields cleared or delivers with OUT_VALID set; either way the input
is consumed (10 R26 to R28). -/
theorem Ends.frame_fields (h : Ends s i t) (hw : i.wellFormed s.nkeys = true) (hf : isFrame i = true) :
    t.inlen = 0 ∧ ((t.code = .ok ∧ t.outValid = true) ∨ (t.code ≠ .ok ∧ t.outValid = false ∧ t.outlen = 0)) := by
  cases h with
  | illegal hn hk => exact absurd hk (slot_exists hw hn)
  | frameFailed _ hok => exact ⟨rfl, .inr ⟨hok, rfl, rfl⟩⟩
  | delivered => exact ⟨rfl, .inl ⟨rfl, rfl⟩⟩
  | icvFailed => exact ⟨rfl, .inr ⟨by simp, rfl, rfl⟩⟩
  | micFailed => exact ⟨rfl, .inr ⟨by simp, rfl, rfl⟩⟩
  | otherFailed hf' => simp [hf'] at hf
  | _ => cases hf

/-- A command that is no frame command touches neither frame (10 R26 to R28). -/
theorem Ends.frames_kept (h : Ends s i t) (hf : isFrame i = false) :
    t.inlen = s.inlen ∧ t.outlen = s.outlen ∧ t.outValid = s.outValid ∧ t.outbuf = s.outbuf := by
  cases h with
  | frameFailed hf' => simp [hf'] at hf
  | delivered _ _ hw | icvFailed _ _ hw | micFailed _ _ hw => simp [hw.isFrame] at hf
  | _ => simp

/-- Settles O23. -/
theorem onlyFrameCommandsTouchTheFrames : Obligations.OnlyFrameCommandsTouchTheFrames := by
  intro i s t hw h
  refine ⟨fun hf => ?_, fun hf => ?_⟩
  · obtain ⟨hin, ⟨hc, hv⟩ | ⟨hc, hv, hlen⟩⟩ := (exec_ends h).frame_fields hw hf
    · simp [hin, hc, hv]
    · simp [hin, hc, hv, hlen]
  · obtain ⟨hin, hout, hv, hbuf⟩ := (exec_ends h).frames_kept hf
    exact ⟨hin, hout, hv, fun a => by rw [hbuf]⟩

/-- Every end of a command leaves `IFFLAGS` alone or, in access-point mode, sets bit 0 (10 R29; 46 R304). -/
theorem Ends.ifflags (h : Ends s i t) :
    t.ifflags = s.ifflags ∨ (s.opmode = .ap ∧ t.ifflags = s.ifflags ||| 1) := by
  cases h with
  | micFailed _ _ _ tsc => exact handler_ifflags _ tsc
  | micReported => exact handler_ifflags _ _
  | _ => exact .inl rfl

/-- Settles O25: setting bit 0 keeps bits 31:1. -/
theorem commandsNeverClearTheFlag : Obligations.CommandsNeverClearTheFlag := by
  intro i s t h
  refine ⟨(exec_ends h).ifflags, ?_⟩
  rcases (exec_ends h).ifflags with heq | ⟨-, heq⟩
  · simp [heq]
  · refine ⟨fun j hj => ?_, fun _ => by simp [heq]⟩
    have hbit : (1 : BitVec 32).getLsbD j = false := by simp [BitVec.getLsbD_one, Nat.one_le_iff_ne_zero.mp hj]
    rw [heq, BitVec.getLsbD_or, hbit, Bool.or_false]

end Sys2Proof.Proofs
end

section
/-! SUPPORT. What a frame command writes into its own slot (10 R43). -/

open Sys2Proof Sys2Proof.Machine Sys2Proof.Claims

namespace Sys2Proof.Proofs

variable {i : Instr} {s t : State} {n : BitVec 8} {k k' : KeySlot}

/-- What a command leaves in an existing slot it may write. -/
theorem setSlot_get_same (hk : s.keys[n.toNat]? = some k) (k' : KeySlot) :
    (s.keys.set n.toNat k')[n.toNat]? = some k' :=
  List.getElem?_set_self (List.getElem?_eq_some_iff.mp hk).1

/-- A frame command leaves its slot as it was or writes it as `SlotWrite` says. -/
theorem Ends.frame_slot (h : Ends s i t) (hf : isFrame i = true) (hn : i.slot? = some n)
    (hk : s.keys[n.toNat]? = some k) (hk' : t.keys[n.toNat]? = some k') : k' = k ∨ SlotWrite i k k' := by
  have same : t.keys = s.keys → k' = k := fun he => by
    rw [he, hk] at hk'; exact (Option.some.inj hk').symm
  have written : ∀ {m : BitVec 8} {k₀ k₁ : KeySlot}, i.slot? = some m → s.keys[m.toNat]? = some k₀ →
      SlotWrite i k₀ k₁ → t.keys = s.keys.set m.toNat k₁ → SlotWrite i k k' := fun hm hk₀ hw he => by
    cases hn.symm.trans hm
    rw [he, setSlot_get_same hk] at hk'
    cases hk'
    cases hk.symm.trans hk₀
    exact hw
  cases h with
  | illegal | frameFailed | otherFailed => exact .inl (same (by simp))
  | delivered hm hk₀ hw => exact .inr (written hm hk₀ hw rfl)
  | icvFailed hm hk₀ hw => exact .inr (written hm hk₀ hw rfl)
  | micFailed hm hk₀ hw => exact .inr (written hm hk₀ hw (handler_keys _ _))
  | _ => cases hf

/-- The words a transmit command may write (10 R43). -/
def Transmitted (k k' : KeySlot) : Prop :=
  k' = { k with tsc := k'.tsc, ctx := k'.ctx } ∧
  (∀ rk, k.ctx = .ccmp rk → k'.ctx = .ccmp rk) ∧ (k.ctx = .absent → k'.ctx = .absent) ∧
  (∀ c, k.ctx = .tkip c → ∃ c', k'.ctx = .tkip c' ∧
    c' = { c with txttak := c'.txttak, txttakOk := c'.txttakOk, rc4 := c'.rc4 })

/-- The words a receive command may write (10 R43). -/
def Received (k k' : KeySlot) : Prop :=
  k' = { k with rsc := k'.rsc, mgmtRsc := k'.mgmtRsc, ctx := k'.ctx } ∧
  (∀ rk, k.ctx = .ccmp rk → k'.ctx = .ccmp rk) ∧ (k.ctx = .absent → k'.ctx = .absent) ∧
  (∀ c, k.ctx = .tkip c → ∃ c', k'.ctx = .tkip c' ∧
    c' = { c with rxttak := c'.rxttak, rxttakOk := c'.rxttakOk, rc4 := c'.rc4 })

theorem transmitted_refl (k : KeySlot) : Transmitted k k := ⟨rfl, fun _ h => h, fun h => h, fun c h => ⟨c, h, rfl⟩⟩

theorem received_refl (k : KeySlot) : Received k k := ⟨rfl, fun _ h => h, fun h => h, fun c h => ⟨c, h, rfl⟩⟩

/-- Committing a receive counter writes the receive counters alone (45 R285). -/
theorem commit_received (k : KeySlot) (sel : CounterSel) (pn : BitVec 48) : Received k (k.commit sel pn) := by
  cases sel <;> exact ⟨rfl, fun _ h => h, fun h => h, fun c h => ⟨c, h, rfl⟩⟩

/-- A transmit command writes no more than its words. -/
theorem SlotWrite.transmitted (h : SlotWrite i k k') (hi : i = .ccmpEncrypt n ∨ i = .tkipEncrypt n) :
    Transmitted k k' := by
  cases h with
  | ccmpSent hc => exact ⟨rfl, fun _ h => h, fun h => h, fun c h => ⟨c, h, rfl⟩⟩
  | tkipSent hc hw =>
    refine ⟨rfl, fun _ h => ?_, fun h => ?_, fun c h => ?_⟩
    · cases hc.symm.trans h
    · cases hc.symm.trans h
    · cases hc.symm.trans h; exact ⟨_, rfl, hw.same⟩
  | _ => simp at hi

/-- A receive command writes no more than its words. -/
theorem SlotWrite.received (h : SlotWrite i k k') (hi : i = .ccmpDecrypt n ∨ i = .tkipDecrypt n) :
    Received k k' := by
  cases h with
  | ccmpReceived hc sel pn => exact commit_received k sel pn
  | tkipReceived hc hw | tkipRejected hc hw =>
    refine ⟨rfl, fun _ h => ?_, fun h => ?_, fun c h => ?_⟩
    · cases hc.symm.trans h
    · cases hc.symm.trans h
    · cases hc.symm.trans h; exact ⟨_, rfl, hw.same⟩
  | _ => simp at hi

/-- A command keeps the number of slots, so a slot it finds is there afterwards. -/
theorem Ends.slot_stays (h : Ends s i t) {m : Nat} (hk : s.keys[m]? = some k) : ∃ k', t.keys[m]? = some k' := by
  have hlt : m < t.nkeys := h.hostSideKept.nkeys ▸ (List.getElem?_eq_some_iff.mp hk).1
  exact ⟨_, List.getElem?_eq_getElem hlt⟩

/-- Settles O30. -/
theorem transmitAndReceiveKeepToTheirWords : Obligations.TransmitAndReceiveKeepToTheirWords := by
  intro n i s t k h hk
  have he := exec_ends h
  obtain ⟨k', hk'⟩ := he.slot_stays hk
  refine ⟨k', hk', fun hi => ?_, fun hi => ?_⟩
  · replace hi : i = .ccmpEncrypt n ∨ i = .tkipEncrypt n := by simpa using hi
    have hslot : isFrame i = true ∧ i.slot? = some n := by rcases hi with rfl | rfl <;> exact ⟨rfl, rfl⟩
    rcases he.frame_slot hslot.1 hslot.2 hk hk' with rfl | hw
    · exact transmitted_refl k'
    · exact hw.transmitted hi
  · replace hi : i = .ccmpDecrypt n ∨ i = .tkipDecrypt n := by simpa using hi
    have hslot : isFrame i = true ∧ i.slot? = some n := by rcases hi with rfl | rfl <;> exact ⟨rfl, rfl⟩
    rcases he.frame_slot hslot.1 hslot.2 hk hk' with rfl | hw
    · exact received_refl k'
    · exact hw.received hi

end Sys2Proof.Proofs
end

section
/-! SUPPORT. Slots are independent (10 R50): a command commutes with replacing every slot but its own. -/

open Sys2Proof Sys2Proof.Machine Sys2Proof.Claims

namespace Sys2Proof.Proofs

/-- The slot file `keys` with slot `m` taken from `own`. -/
def graft (m : Nat) (own keys : List KeySlot) : List KeySlot :=
  match own[m]? with
  | some k => keys.set m k
  | none => keys

/-- The state with every slot but `m` replaced by that of `keys`. -/
def transplant (m : Nat) (keys : List KeySlot) (s : State) : State := { s with keys := graft m s.keys keys }

/-- An answer with its next state, if it is one, put through `f`. -/
def mapNext (f : State → State) : Result → Result
  | .next t => .next (f t)
  | .fault r => .fault r
  | .refused r => .refused r

/-! ### The grafted slot file -/

theorem graft_some {m : Nat} {own : List KeySlot} {k : KeySlot} (h : own[m]? = some k) (keys : List KeySlot) :
    graft m own keys = keys.set m k := by simp [graft, h]

@[simp] theorem graft_length (m : Nat) (own keys : List KeySlot) : (graft m own keys).length = keys.length := by
  unfold graft; split <;> simp

/-- Slot `m` is the own one. -/
theorem graft_get_same {m : Nat} {own keys : List KeySlot} (hl : keys.length = own.length) :
    (graft m own keys)[m]? = own[m]? := by
  cases h : own[m]? with
  | none =>
    have hm : own.length ≤ m := List.getElem?_eq_none_iff.mp h
    exact List.getElem?_eq_none_iff.mpr (by rw [graft_length, hl]; exact hm)
  | some k =>
    have hm : m < keys.length := hl ▸ (List.getElem?_eq_some_iff.mp h).1
    rw [graft_some h, List.getElem?_set_self hm]

/-- Every other slot is the replaced one. -/
theorem graft_get_other {m j : Nat} (h : j ≠ m) (own keys : List KeySlot) : (graft m own keys)[j]? = keys[j]? := by
  unfold graft
  split
  · exact List.getElem?_set_ne (Ne.symm h)
  · rfl

/-- Where the two files agree on slot `m`, grafting it changes nothing. -/
theorem graft_agree {m : Nat} {own keys : List KeySlot} (h : keys[m]? = own[m]?) : graft m own keys = keys := by
  refine List.ext_getElem? fun j => ?_
  by_cases hj : j = m
  · subst hj
    cases ho : own[j]? with
    | none => simp [graft, ho]
    | some k =>
      have hlt : j < keys.length := (List.getElem?_eq_some_iff.mp (h.trans ho)).1
      rw [graft_some ho, List.getElem?_set_self hlt, h, ho]
  · exact graft_get_other hj own keys

/-- Grafting a slot just written writes it in the replaced file. -/
theorem graft_set {m : Nat} {own keys : List KeySlot} (h : m < own.length) (k : KeySlot) :
    graft m (own.set m k) keys = (graft m own keys).set m k := by
  rw [graft_some (List.getElem?_set_self h), graft_some (List.getElem?_eq_getElem h), List.set_set]

/-! ### The shared operations commute with it -/

section
variable (m : Nat) (keys : List KeySlot) (s : State)

@[simp] theorem transplant_allocFail : (transplant m keys s).allocFail = s.allocFail := rfl
@[simp] theorem transplant_noMem (n : Nat) : (transplant m keys s).noMem n = s.noMem n := rfl
@[simp] theorem transplant_frame : (transplant m keys s).frame = s.frame := rfl
@[simp] theorem transplant_ccmpInstall : (transplant m keys s).ccmpInstall = s.ccmpInstall := rfl
@[simp] theorem transplant_tkipInstall : (transplant m keys s).tkipInstall = s.tkipInstall := rfl

theorem transplant_raise (kind : CmdKind) (c : Status) :
    transplant m keys (s.raise kind c) = (transplant m keys s).raise kind c := by
  cases kind <;> rfl

theorem transplant_deliver (out : Octets) :
    transplant m keys (s.deliver out) = (transplant m keys s).deliver out := rfl

theorem transplant_setCode (c : Status) : transplant m keys (s.setCode c) = (transplant m keys s).setCode c := rfl

theorem transplant_drawFree : transplant m keys s.drawFree = (transplant m keys s).drawFree := rfl

theorem transplant_emit (e : Event) : transplant m keys (s.emit e) = (transplant m keys s).emit e := by
  rw [emit_eq, emit_eq]; rfl

theorem transplant_escalate (tsc : BitVec 48) :
    transplant m keys (s.escalate tsc) = (transplant m keys s).escalate tsc := by
  have hop : (transplant m keys s).opmode = s.opmode := rfl
  unfold State.escalate
  rw [hop]
  split
  · exact transplant_emit ..
  · simp only [State.escalateSta, transplant_emit]; rfl

/-- The handler reads and writes no slot (46 R300). -/
theorem transplant_handler (tsc : BitVec 48) :
    transplant m keys (s.handler tsc) = (transplant m keys s).handler tsc := by
  have hact : (transplant m keys s).countermeasuresActive = s.countermeasuresActive := rfl
  have hwin : (transplant m keys s).outsideWindow = s.outsideWindow := rfl
  unfold State.handler
  rw [hact, hwin, ← transplant_escalate]
  split
  · rfl
  · split <;> rfl

theorem transplant_setSlot (h : m < s.keys.length) (k : KeySlot) :
    transplant m keys (s.setSlot m k) = (transplant m keys s).setSlot m k := by
  simp only [transplant, State.setSlot, graft_set h]

@[simp] theorem mapNext_next (f : State → State) : mapNext f (.next s) = .next (f s) := rfl
@[simp] theorem mapNext_fault (f : State → State) (r : Fault) : mapNext f (.fault r) = .fault r := rfl

theorem mapNext_ite (f : State → State) (p : Prop) [Decidable p] (a b : Result) :
    mapNext f (if p then a else b) = if p then mapNext f a else mapNext f b := apply_ite ..

@[simp] theorem mapNext_fail (kind : CmdKind) (c : Status) :
    mapNext (transplant m keys) (fail kind c s) = fail kind c (transplant m keys s) := by
  simp [fail, transplant_raise]

end

/-! ### The commands commute with it -/

section
variable {keys : List KeySlot} {s : State} {n : BitVec 8}

/-- `withSlot` finds the own slot in the replaced file. -/
theorem withSlot_transplant (hl : keys.length = s.keys.length) {f g : KeySlot → Result}
    (h : ∀ k, n.toNat < s.keys.length → g k = mapNext (transplant n.toNat keys) (f k)) :
    withSlot n (transplant n.toNat keys s) g = mapNext (transplant n.toNat keys) (withSlot n s f) := by
  have hget : (transplant n.toNat keys s).keys[n.toNat]? = s.keys[n.toNat]? := graft_get_same hl
  cases hk : s.keys[n.toNat]? with
  | none => rw [withSlot_none hk, withSlot_none (hget.trans hk)]; rfl
  | some k => rw [withSlot_some hk, withSlot_some (hget.trans hk), h k (List.getElem?_eq_some_iff.mp hk).1]

/-- `withFrame` finds the same frame. -/
theorem withFrame_transplant {m : Nat} {f g : Octets → Result} (h : ∀ F, g F = mapNext (transplant m keys) (f F)) :
    withFrame (transplant m keys s) g = mapNext (transplant m keys) (withFrame s f) := by
  cases hF : s.frame with
  | none => rw [withFrame_none hF, withFrame_none (by simpa using hF)]; rfl
  | some F => rw [withFrame_some hF, withFrame_some (by simpa using hF), h]

section
variable (hn : n.toNat < s.keys.length) (k : KeySlot) (F : Octets)
include hn

theorem ccmpEncryptFrame_transplant (rk : List Block) :
    ccmpEncryptFrame n (transplant n.toNat keys s) k rk F =
      mapNext (transplant n.toNat keys) (ccmpEncryptFrame n s k rk F) := by
  simp only [ccmpEncryptFrame, mapNext_ite, mapNext_fail, mapNext_next, transplant_noMem, transplant_deliver,
    transplant_setSlot _ _ _ hn]

theorem ccmpDecryptFrame_transplant (rk : List Block) :
    ccmpDecryptFrame n (transplant n.toNat keys s) k rk F =
      mapNext (transplant n.toNat keys) (ccmpDecryptFrame n s k rk F) := by
  simp only [ccmpDecryptFrame, mapNext_ite, mapNext_fail, mapNext_next, transplant_noMem, transplant_deliver,
    transplant_setSlot _ _ _ hn]
  rfl

theorem tkipEncryptFrame_transplant (c : TkipCtx) :
    tkipEncryptFrame n (transplant n.toNat keys s) k c F =
      mapNext (transplant n.toNat keys) (tkipEncryptFrame n s k c F) := by
  simp only [tkipEncryptFrame, mapNext_ite, mapNext_fail, mapNext_next, transplant_noMem, transplant_deliver,
    transplant_setSlot _ _ _ hn]

theorem tkipVerify_transplant (c : TkipCtx) (tsc : BitVec 48) :
    tkipVerify n (transplant n.toNat keys s) k c F tsc =
      mapNext (transplant n.toNat keys) (tkipVerify n s k c F tsc) := by
  simp only [tkipVerify, mapNext_ite, mapNext_fail, mapNext_next, transplant_handler, transplant_deliver,
    transplant_setSlot _ _ _ hn]

theorem tkipDecryptFrame_transplant (c : TkipCtx) :
    tkipDecryptFrame n (transplant n.toNat keys s) k c F =
      mapNext (transplant n.toNat keys) (tkipDecryptFrame n s k c F) := by
  simp only [tkipDecryptFrame, mapNext_ite, mapNext_fail, transplant_noMem, tkipVerify_transplant hn]

end

/-- A command that takes a slot does the same whatever the other slots hold, and leaves them alone (10 R50). -/
theorem exec_transplant {i : Instr} (hi : i.slot? = some n) (hl : keys.length = s.keys.length) :
    exec i (transplant n.toNat keys s) = mapNext (transplant n.toNat keys) (exec i s) := by
  cases i with
  | tkipMic => cases hi
  | micFailure => cases hi
  | ccmpSetKey slot =>
    cases hi
    refine withSlot_transplant hl fun k hn => ?_
    simp only [mapNext_ite, mapNext_fail, mapNext_next, transplant_setCode, transplant_setSlot _ _ _ hn,
      transplant_allocFail, transplant_ccmpInstall]
    rfl
  | tkipSetKey slot =>
    cases hi
    refine withSlot_transplant hl fun k hn => ?_
    simp only [mapNext_ite, mapNext_fail, mapNext_next, transplant_setCode,
      transplant_setSlot _ _ s.drawFree hn, transplant_drawFree, transplant_allocFail, transplant_tkipInstall]
    rfl
  | ccmpDeleteKey slot =>
    cases hi
    refine withSlot_transplant hl fun k hn => ?_
    simp only [mapNext_ite, mapNext_fail, mapNext_next, transplant_setCode, transplant_setSlot _ _ _ hn]
  | tkipDeleteKey slot =>
    cases hi
    refine withSlot_transplant hl fun k hn => ?_
    simp only [mapNext_ite, mapNext_fail, mapNext_next, transplant_setCode, transplant_setSlot _ _ _ hn]
  | ccmpEncrypt slot =>
    cases hi
    refine withSlot_transplant hl fun k hn => ?_
    cases hc : k.ctx with
    | absent | tkip => exact (mapNext_fail ..).symm
    | ccmp rk => exact withFrame_transplant fun F => ccmpEncryptFrame_transplant hn k F rk
  | ccmpDecrypt slot =>
    cases hi
    refine withSlot_transplant hl fun k hn => ?_
    cases hc : k.ctx with
    | absent | tkip => exact (mapNext_fail ..).symm
    | ccmp rk => exact withFrame_transplant fun F => ccmpDecryptFrame_transplant hn k F rk
  | tkipEncrypt slot =>
    cases hi
    refine withSlot_transplant hl fun k hn => ?_
    cases hc : k.ctx with
    | absent | ccmp => exact (mapNext_fail ..).symm
    | tkip c => exact withFrame_transplant fun F => tkipEncryptFrame_transplant hn k F c
  | tkipDecrypt slot =>
    cases hi
    refine withSlot_transplant hl fun k hn => ?_
    cases hc : k.ctx with
    | absent | ccmp => exact (mapNext_fail ..).symm
    | tkip c => exact withFrame_transplant fun F => tkipDecryptFrame_transplant hn k F c

end

/-- Replacing the slots by a file that agrees on slot `m` is a transplant. -/
theorem withKeys_eq_transplant {m : Nat} {s : State} {keys : List KeySlot} (h : keys[m]? = s.keys[m]?) :
    ({ s with keys := keys } : State) = transplant m keys s := by
  rw [transplant, graft_agree h]

/-- A command with a slot operand leaves every other slot as it is (10 R50). -/
theorem Ends.other_slots {i : Instr} {s t : State} {n : BitVec 8} (h : Ends s i t) (hi : i.slot? = some n) {j : Nat}
    (hj : j ≠ n.toNat) : t.keys[j]? = s.keys[j]? := by
  have set : ∀ {m : BitVec 8} (k : KeySlot), i.slot? = some m → (s.keys.set m.toNat k)[j]? = s.keys[j]? := by
    intro m k hm
    cases hi.symm.trans hm
    exact List.getElem?_set_ne hj.symm
  cases h with
  | illegal | frameFailed | otherFailed => simp
  | ccmpInstalled | tkipInstalled | ccmpDeleted | tkipDeleted => exact set _ rfl
  | delivered hm => exact set _ hm
  | icvFailed hm => exact set _ hm
  | micFailed hm => simpa using set _ hm
  | micComputed => cases hi
  | micReported => cases hi

/-- Settles O31, from the commuting equation `exec_transplant`. -/
theorem slotsAreIndependent : Obligations.SlotsAreIndependent := by
  intro i n s keys hi hl hget
  rw [withKeys_eq_transplant hget, exec_transplant hi hl]
  refine ⟨fun t h j hj => (exec_ends h).other_slots hi hj, fun t h => ?_, fun f h => by rw [h]; rfl⟩
  have hlen : keys.length = t.keys.length := hl.trans (exec_ends h).hostSideKept.nkeys.symm
  exact ⟨graft n.toNat t.keys keys, by rw [h]; rfl, graft_get_same hlen, fun j hj => graft_get_other hj _ _⟩

end Sys2Proof.Proofs
end

section
/-! SUPPORT. The octets over the operand registers, what one access does in one step, and the command a word starts
(10 R21, R23 to R25; 30 R90 to R92). -/

open Sys2Proof Sys2Proof.Machine Sys2Proof.Claims

namespace Sys2Proof.Proofs

/-! ### Octets over the operand registers -/

/-- Octet `j` of a little-endian word is its bits `8j+7 : 8j` (00 R10). -/
theorem le32Bytes_get (v : BitVec 32) {j : Nat} (h : j < 4) : (le32Bytes v)[j]? = some (v.extractLsb' (8 * j) 8) := by
  match j, h with
  | 0, _ | 1, _ | 2, _ | 3, _ => rfl

/-- Octet `i` of a string laid over registers is octet `i mod 4` of register `i div 4` (10 R21). -/
theorem flatMap_le32Bytes_get (l : List (BitVec 32)) (i : Nat) :
    (l.flatMap le32Bytes)[i]? = l[i / 4]?.map fun v => v.extractLsb' (8 * (i % 4)) 8 := by
  induction l generalizing i with
  | nil => simp
  | cons v l ih =>
    rw [List.flatMap_cons]
    by_cases hi : i < 4
    · rw [List.getElem?_append_left hi, le32Bytes_get v hi, Nat.div_eq_of_lt hi, Nat.mod_eq_of_lt hi]; rfl
    · obtain ⟨i, rfl⟩ : ∃ i', i = i' + 4 := ⟨i - 4, by omega⟩
      rw [List.getElem?_append_right (by simp), le32Bytes_length, Nat.add_sub_cancel, ih, Nat.add_mod_right,
        Nat.add_div_right i (by omega), List.getElem?_cons_succ]

/-- Octet `i` of an operand string (10 R21). -/
theorem oct_oprOctets (s : State) {base n i : Nat} (hn : base + n ≤ 16) (hi : i < 4 * n) :
    oct (s.oprOctets base n) i = (s.opr[base + i / 4]'(by omega)).extractLsb' (8 * (i % 4)) 8 := by
  have hlt : base + i / 4 < s.opr.toList.length := by simp; omega
  have hget : (((s.opr.toList.drop base).take n)[i / 4]?) = some (s.opr[base + i / 4]'(by omega)) := by
    rw [List.getElem?_take_of_lt (by omega), List.getElem?_drop, List.getElem?_eq_getElem hlt]; simp
  simp [oct, State.oprOctets, List.getD_eq_getElem?_getD, flatMap_le32Bytes_get, hget]

/-- Settles O44. -/
theorem operandOctetsAreLittleEndian : Obligations.OperandOctetsAreLittleEndian := by
  intro s i
  refine ⟨keyin_length s, ?_, fun hi => oct_oprOctets s (by omega) (by omega)⟩
  have h := oct_oprOctets s (base := 0) (n := 8) (i := i.val) (by omega) (by omega)
  rw [State.keyin, h]
  simp only [Nat.zero_add]

/-! ### One access, one step -/

section
variable {s : State} {rest : List HostAccess}

/-- What a register shows does not depend on the pending accesses. -/
theorem csrValue_withHost (s : State) (rest : List HostAccess) (r : Csr) :
    ({ s with host := rest } : State).csrValue r = s.csrValue r := by
  cases r <;> rfl

/-- A step at a host read of a register. -/
theorem step_csrRead {r : Csr} (h : s.host = .csrRead r :: rest) :
    step s = .next (({ s with host := rest } : State).csrRead r) := step_access h

/-- A read of a register but `EVT_POP` returns its value and changes nothing else. -/
theorem step_csrRead_plain {r : Csr} (h : s.host = .csrRead r :: rest) (hr : r ≠ .evtPop) :
    step s = .next { s with host := rest, rdata := s.csrValue r } := by
  rw [step_csrRead h, csrRead_plain hr, csrValue_withHost]; rfl

/-- A step at a host write of a register but `CMD`. -/
theorem step_csrWrite {r : Csr} {v : BitVec 64} (h : s.host = .csrWrite r v :: rest) (hr : r ≠ .cmd) :
    step s = .next (({ s with host := rest } : State).csrWrite r v) := by
  rw [step_access h, hostAccess_csrWrite hr]

end

/-! ### Decoding the word of a command -/

/-- The row a word selects, for words with the fields of `encode` (30 R91). -/
theorem decode_encode (i : Instr) : decode (encode i) = .ok i := by
  have hop : opField (encode i) = opcode i := opField_pack _ _
  have hslot : slotField (encode i) = i.slot?.getD 0 := slotField_pack _ _
  have hres : reservedField (encode i) = 0 := reservedField_pack _ _
  unfold decode decodeNoSlot
  rw [hop, hslot, hres]
  cases i <;> rfl

/-- A legal command decodes from its word (30 R92). -/
theorem decodeFor_encode {nkeys : Nat} {i : Instr} (h : i.wellFormed nkeys = true) :
    decodeFor nkeys (encode i) = .ok i := by
  simp [decodeFor, decode_encode, h]

/-- A write of `CSR.CMD` with a legal word runs its command (10 R25). -/
theorem step_command {s : State} {v : BitVec 64} {rest : List HostAccess} {i : Instr}
    (h : s.host = .csrWrite .cmd v :: rest) (hd : decodeFor s.nkeys (v.setWidth 32) = .ok i) :
    step s = exec i { s with host := rest } := by
  have hd' : decodeFor ({ s with host := rest } : State).nkeys (v.setWidth 32) = .ok i := hd
  rw [step_access h, hostAccess, runWord, hd']

/-- A 32-bit word placed in the 64-bit access comes back whole. -/
theorem word_of_access (w : BitVec 32) : (BitVec.ofNat 64 (w.toNat % 2 ^ 32)).setWidth 32 = w := by
  apply BitVec.eq_of_toNat_eq
  have := w.isLt
  simp
  omega

/-- Settles O5. -/
theorem stepRunsTheDecodedCommand : Obligations.StepRunsTheDecodedCommand := by
  refine ⟨fun s v rest i h hd => step_command h hd, fun s h => step_idle h, fun s i hw => ?_⟩
  exact step_command (s := s.withFetchWord 32 (encode i).toNat) rfl (by rw [word_of_access]; exact decodeFor_encode hw)

end Sys2Proof.Proofs
end

section
/-! SUPPORT. The host's writes and reads of registers: what is stored, what is shown, and that nothing else changes
(10 R24, R26, R27, R29, R33, R34). -/

open Sys2Proof Sys2Proof.Machine Sys2Proof.Claims

namespace Sys2Proof.Proofs

/-! ### Host writes -/

/-- Settles O47. -/
theorem writesOfReadOnlyRegistersAreIgnored : Obligations.WritesOfReadOnlyRegistersAreIgnored := by
  intro s rest
  refine ⟨fun r v hr h => ?_, fun j v hj h => ?_, fun j v hj h => ?_⟩
  · have hcmd : r ≠ .cmd := by rintro rfl; simp at hr
    rw [step_csrWrite h hcmd]
    cases r with
    | cmd | inlen | ifflags | opmode | slotsel | tidsel => simp at hr
    | _ => rfl
  · rw [step_access h, hostAccess, State.oprWrite, if_neg (by omega)]
  · refine ⟨s.opr.set j.val v, ?_, by simp, fun m hm => ?_⟩
    · rw [step_access h, hostAccess, State.oprWrite, if_pos hj]
    · have hne : j.val ≠ m.val := fun he => hm (Fin.ext he.symm)
      simp [hne]

/-- Settles O48: `INCAP` fits 16 bits, so the stored `INCAP` is `INCAP`. -/
theorem inlenIsClamped : Obligations.InlenIsClamped := by
  intro s v rest hp h
  have hcap : s.cfg.incap ≤ 65535 := by
    simp only [State.ParamsOk, Config.ok, Bool.and_eq_true, decide_eq_true_eq] at hp
    obtain ⟨⟨⟨-, -, hcap⟩, -⟩, -⟩ := hp
    exact hcap
  refine ⟨_, by rw [step_csrWrite h (by decide)]; rfl, ?_⟩
  have hv : (v.setWidth 16).toNat = v.toNat % 65536 := BitVec.toNat_setWidth 16 v
  have hc : (BitVec.ofNat 16 s.cfg.incap).toNat = s.cfg.incap := by rw [BitVec.toNat_ofNat]; omega
  simp only [hv]
  split <;> omega

/-- The operating mode a write selects is its bit 0 (10 R24). -/
theorem ofBit_setWidth (v : BitVec 64) : OpMode.ofBit (v.setWidth 1) = if v.getLsbD 0 then .ap else .sta := by
  have hbit : v.setWidth 1 = BitVec.ofBool (v.getLsbD 0) := by
    ext i hi
    obtain rfl : i = 0 := by omega
    simp
  rw [hbit]
  cases v.getLsbD 0 <;> rfl

/-- Settles O49. -/
theorem hostWritesStoreTheirRegisters : Obligations.HostWritesStoreTheirRegisters := by
  intro s v rest
  refine ⟨fun h => ⟨v.setWidth 32, ?_, ?_, ?_⟩, fun h => ?_, fun h => ?_, fun h => ?_⟩
  · rw [step_csrWrite h (by decide)]; rfl
  · exact BitVec.setWidth_eq_extractLsb' (by decide)
  · simp
  · rw [step_csrWrite h (by decide), State.csrWrite, ofBit_setWidth]
  · rw [step_csrWrite h (by decide), ← BitVec.setWidth_eq_extractLsb' (by decide)]; rfl
  · rw [step_csrWrite h (by decide), ← BitVec.setWidth_eq_extractLsb' (by decide)]; rfl

/-! ### Host reads -/

section
variable (s : State)

/-- `STATUS[7:0]` is the number of the code (10 R26). -/
theorem statusWord_code : s.statusWord.extractLsb' 0 8 = s.code.number := by
  rw [State.statusWord, BitVec.extractLsb'_append_eq_of_add_le (by decide), BitVec.extractLsb'_eq_self]

/-- `STATUS[8]` is OUT_VALID (10 R26). -/
theorem statusWord_outValid : s.statusWord.getLsbD 8 = s.outValid := by
  rw [State.statusWord, BitVec.getLsbD_append, BitVec.getLsbD_append]
  simp [bit]

/-- `STATUS` is zero above bit 8 (10 R26). -/
theorem statusWord_high (n : Nat) : s.statusWord.extractLsb' 9 n = 0 := by
  rw [State.statusWord, BitVec.extractLsb'_append_eq_of_le (by decide),
    BitVec.extractLsb'_append_eq_of_le (by decide), BitVec.extractLsb'_zero]
  rfl

end

/-- The numbers of the codes are their places in the table of 60 R320. -/
theorem number_table (c : Status) :
    ([.ok, .nomem, .malformed, .noExtIv, .replay, .authFailCcmp, .icvFailTkip, .micFailTkip, .badKey, .illegalCmd,
      .pnExhausted] : List Status)[c.number.toNat]? = some c := by
  cases c <;> rfl

/-- Settles O54. -/
theorem statusReadsCodeAndOutValid : Obligations.StatusReadsCodeAndOutValid := by
  intro s rest h
  refine ⟨_, step_csrRead_plain h (by decide), ?_, ?_, ?_⟩
  · rw [State.csrValue, BitVec.getLsbD_setWidth, statusWord_outValid]; rfl
  · rw [State.csrValue, BitVec.extractLsb'_setWidth_of_le (by decide), statusWord_high]
  · rw [State.csrValue, BitVec.extractLsb'_setWidth_of_le (by decide), statusWord_code]
    exact number_table s.code

section
variable (e : Event)

/-- Bits 47:0 of an event record are the TSC (30 R124). -/
theorem eventWord_tsc : e.word.extractLsb' 0 48 = e.tsc := by
  rw [Event.word, BitVec.extractLsb'_append_eq_of_add_le (by decide), BitVec.extractLsb'_eq_self]

/-- Bits 51:48 of an event record are the code (30 R124). -/
theorem eventWord_code : e.word.extractLsb' 48 4 = e.code.number := by
  rw [Event.word, BitVec.extractLsb'_append_eq_of_le (by decide), BitVec.extractLsb'_append_eq_of_add_le (by decide)]
  exact BitVec.extractLsb'_eq_self

/-- Bits 63:52 of an event record are zero (30 R124). -/
theorem eventWord_high : e.word.extractLsb' 52 12 = 0 := by
  rw [Event.word, BitVec.extractLsb'_append_eq_of_le (by decide), BitVec.extractLsb'_append_eq_of_le (by decide),
    BitVec.extractLsb'_zero]
  rfl

end

/-- A read of `EVT_POP` returns its value and removes the oldest event (10 R34). -/
theorem step_evtPop {s : State} {rest : List HostAccess} (h : s.host = .csrRead .evtPop :: rest) :
    step s = .next { s with host := rest, evtq := s.evtq.tail, rdata := s.csrValue .evtPop } := by
  rw [step_csrRead h, csrRead_evtPop, csrValue_withHost]; rfl

/-- Settles O52. -/
theorem evtPopTakesTheOldest : Obligations.EvtPopTakesTheOldest := by
  intro s rest h
  refine ⟨fun hq => ?_, fun e q hq => ⟨e.word, ?_, eventWord_tsc e, eventWord_high e, ?_⟩⟩
  · have hval : s.csrValue .evtPop = 0 := by simp only [State.csrValue, hq]
    rw [step_evtPop h, hval, hq, List.tail_nil, ← hq]
  · have hval : s.csrValue .evtPop = e.word := by simp only [State.csrValue, hq]
    rw [step_evtPop h, hval, hq, List.tail_cons]
  · rw [eventWord_code]
    cases e.code <;> rfl

/-- A flag read alone is 1 or 0. -/
theorem bit_setWidth (b : Bool) : (bit b).setWidth 64 = if b then 1 else 0 := by cases b <;> rfl

/-- `OPMODE` reads 1 for an access point and 0 for a station (10 R24). -/
theorem opmodeBit_setWidth (m : OpMode) : m.bit.setWidth 64 = if m = .ap then 1 else 0 := by cases m <;> rfl

/-- `EVT_COUNT` is the low 16 bits of a number (10 R24; entry 10). -/
theorem ofNat16_setWidth (n : Nat) : (BitVec.ofNat 16 n).setWidth 64 = BitVec.ofNat 64 (n % 65536) := by
  apply BitVec.eq_of_toNat_eq
  simp

/-- Settles O50. -/
theorem registerReadsReturnTheirContent : Obligations.RegisterReadsReturnTheirContent := by
  intro s rest
  refine ⟨fun r v hmem h => ?_, fun j h => by rw [step_access h]; rfl⟩
  have hcontent : r ≠ .evtPop ∧ s.csrValue r = v := by
    simp only [List.mem_cons, Prod.mk.injEq, List.not_mem_nil, or_false] at hmem
    rcases hmem with ⟨rfl, rfl⟩ | ⟨rfl, rfl⟩ | ⟨rfl, rfl⟩ | ⟨rfl, rfl⟩ | ⟨rfl, rfl⟩ | ⟨rfl, rfl⟩ | ⟨rfl, rfl⟩ |
      ⟨rfl, rfl⟩ | ⟨rfl, rfl⟩ | ⟨rfl, rfl⟩ | ⟨rfl, rfl⟩ | ⟨rfl, rfl⟩ | ⟨rfl, rfl⟩
    all_goals simp [State.csrValue, bit_setWidth, opmodeBit_setWidth, ofNat16_setWidth]
  rw [step_csrRead_plain h hcontent.1, hcontent.2]

/-! ### The key window -/

section
variable (k : KeySlot)

/-- `KS_INFO[1:0]` is the cipher (10 R33). -/
theorem info_cipher : k.info.extractLsb' 0 2 = k.cipher.number := by
  rw [KeySlot.info, BitVec.extractLsb'_append_eq_of_add_le (by decide), BitVec.extractLsb'_eq_self]

/-- `KS_INFO[3:2]` is the key index (10 R33). -/
theorem info_id : k.info.extractLsb' 2 2 = k.id := by
  rw [KeySlot.info, BitVec.extractLsb'_append_eq_of_le (by decide), BitVec.extractLsb'_append_eq_of_add_le (by decide)]
  exact BitVec.extractLsb'_eq_self

/-- `KS_INFO` above KEYID: the role, the two cache flags, and zero (10 R33). -/
theorem info_flags {j : Nat} (h : 4 ≤ j) : k.info.getLsbD j =
    (0#1 ++ bit k.rxttakOk ++ bit k.txttakOk ++ bit k.group : BitVec (1 + 1 + 1 + 1)).getLsbD (j - 4) := by
  rw [KeySlot.info, BitVec.getLsbD_append, if_neg (by omega), BitVec.getLsbD_append, if_neg (by omega), Nat.sub_sub]

/-- `KS_INFO[4]` is the role (10 R33). -/
theorem info_group : k.info.getLsbD 4 = k.group := by
  rw [info_flags k (by decide), BitVec.getLsbD_append]
  simp [bit]

/-- `KS_INFO[5]` is TXTTAK_OK (10 R33). -/
theorem info_txttakOk : k.info.getLsbD 5 = k.txttakOk := by
  rw [info_flags k (by decide), BitVec.getLsbD_append, BitVec.getLsbD_append]
  simp [bit]

/-- `KS_INFO[6]` is RXTTAK_OK (10 R33). -/
theorem info_rxttakOk : k.info.getLsbD 6 = k.rxttakOk := by
  rw [info_flags k (by decide), BitVec.getLsbD_append, BitVec.getLsbD_append, BitVec.getLsbD_append]
  simp [bit]

/-- `KS_INFO[7]` is zero (10 R33). -/
theorem info_high (n : Nat) : k.info.extractLsb' 7 n = 0 := by
  rw [KeySlot.info]
  iterate 5 rw [BitVec.extractLsb'_append_eq_of_le (by decide)]
  rw [BitVec.extractLsb'_zero]
  rfl

end

/-- Without a slot, or with an empty one, the window shows 0 (10 R33, R51). -/
theorem ksView_none {s : State}
    (h : s.nkeys ≤ s.slotsel.toNat ∨ ∃ k, s.keys[s.slotsel.toNat]? = some k ∧ k.cipher = .none)
    (f : KeySlot → BitVec 64) : s.ksView f = 0 := by
  rcases h with hn | ⟨k, hk, hc⟩
  · simp [State.ksView, List.getElem?_eq_none_iff.mpr hn]
  · simp [State.ksView, hk, hc]

/-- With a key in the slot the window shows the slot (10 R33). -/
theorem ksView_some {s : State} {k : KeySlot} (hk : s.keys[s.slotsel.toNat]? = some k) (hc : k.cipher ≠ .none)
    (f : KeySlot → BitVec 64) : s.ksView f = f k := by
  simp [State.ksView, hk, hc]

/-- A slot that is not empty is a CCMP or a TKIP slot (10 R41). -/
theorem cipher_number {k : KeySlot} (h : k.cipher ≠ .none) : k.cipher.number = if k.cipher = .ccmp then 1 else 2 := by
  cases hc : k.cipher with
  | none => exact absurd hc h
  | ccmp | tkip => rfl

/-- Settles O53. -/
theorem keyWindowShowsTheSelectedSlot : Obligations.KeyWindowShowsTheSelectedSlot := by
  intro s rest
  refine ⟨fun hnone r hr h => ?_, fun k hk hc => ⟨fun h => ?_, fun h => ?_, fun h => ?_, fun h => ?_⟩⟩
  · have hzero : r ≠ .evtPop ∧ s.csrValue r = 0 := by
      simp only [List.mem_cons, List.not_mem_nil, or_false] at hr
      rcases hr with rfl | rfl | rfl | rfl <;> exact ⟨by decide, ksView_none hnone _⟩
    rw [step_csrRead_plain h hzero.1, hzero.2]
  · rw [step_csrRead_plain h (by decide), State.csrValue, ksView_some hk hc]
  · rw [step_csrRead_plain h (by decide), State.csrValue, ksView_some hk hc]
  · rw [step_csrRead_plain h (by decide), State.csrValue, ksView_some hk hc]
  · have hbit : ∀ j, j < 64 → (k.info.setWidth 64).getLsbD j = k.info.getLsbD j := fun j hj => by
      simp only [BitVec.getLsbD_setWidth, hj, decide_true, Bool.true_and]
    refine ⟨k.info.setWidth 64, ?_, ?_, ?_, ?_, fun rk hctx => ?_, fun c hctx => ?_, ?_⟩
    · rw [step_csrRead_plain h (by decide), State.csrValue, ksView_some hk hc]
    · rw [BitVec.extractLsb'_setWidth_of_le (by decide), info_cipher, cipher_number hc]
    · rw [BitVec.extractLsb'_setWidth_of_le (by decide), info_id]
    · rw [hbit 4 (by decide), info_group]
    · rw [hbit 5 (by decide), hbit 6 (by decide), info_txttakOk, info_rxttakOk]
      simp [KeySlot.txttakOk, KeySlot.rxttakOk, hctx]
    · rw [hbit 5 (by decide), hbit 6 (by decide), info_txttakOk, info_rxttakOk]
      simp [KeySlot.txttakOk, KeySlot.rxttakOk, hctx]
    · rw [BitVec.extractLsb'_setWidth_of_le (by decide), info_high]

end Sys2Proof.Proofs
end

section
/-! SUPPORT. What a host access that runs no command can change, said once for each kind of access (10 R21, R24, R27,
R34). -/

open Sys2Proof Sys2Proof.Machine Sys2Proof.Claims

namespace Sys2Proof.Proofs

/-- A written `INLEN` is at most `INCAP` (10 R27). -/
theorem writeInlen_le (s : State) (v : BitVec 64) : (s.writeInlen v).inlen.toNat ≤ s.cfg.incap := by
  simp only [State.writeInlen]
  split
  · exact Nat.mod_le _ _
  · next h => exact Nat.le_of_not_lt h

/-- A host write of a register but `CMD` changes one of five registers at most, and `INLEN` only to a length that fits
(10 R24, R27). -/
theorem csrWrite_eq (s : State) (r : Csr) (v : BitVec 64) :
    ∃ n fl m sl td,
      s.csrWrite r v = { s with inlen := n, ifflags := fl, opmode := m, slotsel := sl, tidsel := td } ∧
      (n = s.inlen ∨ n.toNat ≤ s.cfg.incap) := by
  cases r with
  | inlen => exact ⟨_, _, _, _, _, rfl, .inr (writeInlen_le s v)⟩
  | _ => exact ⟨_, _, _, _, _, rfl, .inl rfl⟩

/-- A host read of a register changes the read data and, at `EVT_POP`, takes the oldest event (10 R34; 20 R69). -/
theorem csrRead_eq (s : State) (r : Csr) :
    ∃ v, s.csrRead r = { s with rdata := v, evtq := if r = .evtPop then s.evtq.tail else s.evtq } := by
  by_cases h : r = .evtPop
  · subst h; exact ⟨_, rfl⟩
  · exact ⟨s.csrValue r, by rw [csrRead_plain h, if_neg h]; rfl⟩

/-- A host write of an operand register changes the operand registers alone (10 R21). -/
theorem oprWrite_eq (s : State) (i : Fin 16) (v : BitVec 32) : ∃ o, s.oprWrite i v = { s with opr := o } := by
  unfold State.oprWrite
  split
  · exact ⟨_, rfl⟩
  · exact ⟨s.opr, rfl⟩

end Sys2Proof.Proofs
end

section
/-! SUPPORT. Every step keeps the buffers canonical and the lengths within them (10 R26 to R28; 20 R60, R61). -/

open Sys2Proof Sys2Proof.Machine Sys2Proof.Claims

namespace Sys2Proof.Proofs

/-! ### The invariant in an input half and an output half -/

/-- A string read has no result exactly when one of its octets holds no value (20 R65). -/
theorem memReadAll_eq_none {m : Mem} {a n : Nat} :
    memReadAll m a n = none ↔ ∃ i, i < n ∧ memRead m (a + i) = none := by
  induction n generalizing a with
  | zero => simp [memReadAll]
  | succ n ih =>
    constructor
    · intro h
      cases h0 : memRead m a with
      | none => exact ⟨0, by omega, h0⟩
      | some b =>
        have hrest : memReadAll m (a + 1) n = none := by
          cases hr : memReadAll m (a + 1) n with
          | none => rfl
          | some bs => simp [memReadAll, h0, hr] at h
        obtain ⟨i, hi, hnone⟩ := ih.mp hrest
        exact ⟨i + 1, by omega, by rw [← hnone]; congr 1; omega⟩
    · rintro ⟨i, hi, hnone⟩
      cases i with
      | zero => rw [Nat.add_zero] at hnone; simp [memReadAll, hnone]
      | succ i =>
        have hrest : memReadAll m (a + 1) n = none :=
          ih.mpr ⟨i, by omega, by rw [← hnone]; congr 1; omega⟩
        simp [memReadAll, hrest]

/-- `INBUF` is canonical and within `INCAP`, and `INLEN` fits it (10 R27; 20 R60). -/
structure InputOk (s : State) : Prop where
  wf : Memory.wf s.inbuf = true
  below : memBelow s.cfg.incap s.inbuf = true
  fits : s.inlen.toNat ≤ s.cfg.incap

/-- `OUTBUF` is canonical and within `OUTCAP`, and holds the output frame while OUT_VALID is 1 (10 R26, R28; 20 R61). -/
structure OutputOk (s : State) : Prop where
  wf : Memory.wf s.outbuf = true
  below : memBelow s.cfg.outcap s.outbuf = true
  fits : s.outlen.toNat ≤ s.cfg.outcap
  present : s.outValid = true → ∀ y, y < s.outlen.toNat → memRead s.outbuf y ≠ none
  absent : s.outValid = false → s.outlen = 0

/-- The two halves together are the invariant of the buffers and lengths. -/
theorem buffersOk_and_lengthsOk_iff {s : State} : (s.BuffersOk ∧ s.LengthsOk) ↔ (InputOk s ∧ OutputOk s) := by
  have hread : (memReadAll s.outbuf 0 s.outlen.toNat).isSome = true ↔
      ∀ y, y < s.outlen.toNat → memRead s.outbuf y ≠ none := by
    rw [Option.isSome_iff_ne_none, Ne, memReadAll_eq_none]
    simp
  constructor
  · rintro ⟨⟨hiw, hib, how, hob⟩, hil, hol, hv, hnv⟩
    exact ⟨⟨hiw, hib, hil⟩, how, hob, hol, fun h => hread.mp (hv h), hnv⟩
  · rintro ⟨⟨hiw, hib, hil⟩, how, hob, hol, hv, hnv⟩
    exact ⟨⟨hiw, hib, how, hob⟩, hil, hol, fun h => hread.mpr (hv h), hnv⟩

/-- The input half passes on with the input buffer, to a length that is kept or fits. -/
theorem InputOk.of_eq {s t : State} (hs : InputOk s) (hcfg : t.cfg = s.cfg) (hbuf : t.inbuf = s.inbuf)
    (hlen : t.inlen = s.inlen ∨ t.inlen.toNat ≤ s.cfg.incap) : InputOk t := by
  refine ⟨by rw [hbuf]; exact hs.wf, by rw [hcfg, hbuf]; exact hs.below, ?_⟩
  rw [hcfg]
  rcases hlen with h | h
  · rw [h]; exact hs.fits
  · exact h

/-- The output half passes on with the output frame. -/
theorem OutputOk.of_eq {s t : State} (hs : OutputOk s) (hcfg : t.cfg = s.cfg) (hbuf : t.outbuf = s.outbuf)
    (hlen : t.outlen = s.outlen) (hv : t.outValid = s.outValid) : OutputOk t := by
  obtain ⟨hwf, hbelow, hfits, hpresent, habsent⟩ := hs
  constructor <;> simpa only [hcfg, hbuf, hlen, hv]

/-- Without an output frame the output half holds (20 R61, U2). -/
theorem outputOk_of_cleared {s : State} (hbuf : s.outbuf = []) (hlen : s.outlen = 0) (hv : s.outValid = false) :
    OutputOk s := by
  constructor <;> simp [hbuf, hlen, hv, Memory.wf, memRising, memBelow]

/-- A delivered frame that fits `OUTCAP` meets the output half, also where the 16 bits of `OUTLEN` cut its length (10 R28;
entry 18). -/
theorem deliver_outputOk {s : State} {out : Octets} (hfit : out.length ≤ s.cfg.outcap) : OutputOk (s.deliver out) := by
  have hlen : (s.deliver out).outlen.toNat ≤ out.length := Nat.mod_le _ _
  refine ⟨memOf_wf out 0, memOf_below out 0 _ (by simpa using hfit), hlen.trans hfit, fun _ y hy => ?_, fun h => ?_⟩
  · have hlt : y < out.length := by omega
    simp [memRead_memOf, hlt]
  · cases h

/-! ### The lengths of the output frames -/

/-- A frame command that does not draw NOMEM has room for its output (60 R326). -/
theorem fits_of_noMem_false {s : State} {n : Nat} (h : s.noMem n = false) : n ≤ s.cfg.outcap := by
  simp only [State.noMem, Bool.or_eq_false_iff, decide_eq_false_iff_not] at h
  omega

/-- CCMP_DECRYPT outputs 16 octets less than its input (42 R190). -/
theorem ccmpOpened_length {rk : List Block} {pn : BitVec 48} {F : Octets} (h : hdrlen F + 16 ≤ F.length) :
    (clearProtected (F.take (hdrlen F)) ++ (ccmpOpen rk pn F).1).length = F.length - 16 := by
  rw [List.length_append, clearProtected_length, List.length_take, ccmpOpen_length h]
  omega

/-- TKIP_ENCRYPT outputs 20 octets more than its input (30 R112). -/
theorem tkipSealed_length {tk txmic : Octets} {p : Ttak} {tsc : BitVec 48} {id : BitVec 2} {F : Octets}
    (h : headerOk F = true) :
    (F.take (hdrlen F) ++ tkipHeader tsc id ++ (tkipSeal tk p tsc (tkipPlain txmic F)).1).length = F.length + 20 := by
  have := headerOk_hdrlen h
  rw [List.length_append, List.length_append, List.length_take, tkipHeader_length, tkipSeal, rc4Crypt_length,
    tkipPlain_length]
  omega

/-- TKIP_DECRYPT outputs 20 octets less than its input (44 R247). -/
theorem tkipOpened_length {st : Rc4} {F : Octets} (h : hdrlen F + 20 ≤ F.length) :
    (clearProtected (F.take (hdrlen F)) ++ (tkipCut (rc4Crypt st (F.drop (hdrlen F + 8))).1).body).length =
      F.length - 20 := by
  have hdata : (rc4Crypt st (F.drop (hdrlen F + 8))).1.length = F.length - (hdrlen F + 8) := by simp
  obtain ⟨hbody, -, -⟩ := tkipCut_lengths (d := (rc4Crypt st (F.drop (hdrlen F + 8))).1) (by omega)
  rw [List.length_append, clearProtected_length, List.length_take, hbody, hdata]
  omega

/-! ### What a command does to the two frames -/

/-- How a command can leave the two frames: kept, cleared by a failure, or a delivered frame that fits (60 R322, R326). -/
inductive FramesAfter (s : State) : State → Prop
  | kept {t : State} (hin : t.inlen = s.inlen) (hlen : t.outlen = s.outlen) (hv : t.outValid = s.outValid)
      (hbuf : t.outbuf = s.outbuf) : FramesAfter s t
  | cleared {u : State} {c : Status} : FramesAfter s (u.raise .frame c)
  | delivered {u : State} {out : Octets} (hfit : out.length ≤ s.cfg.outcap) : FramesAfter s (u.deliver out)

section
variable {s t : State} {n : BitVec 8}

theorem ccmpEncrypt_framesAfter (h : execCcmpEncrypt n s = .next t) : FramesAfter s t := by
  rcases execCcmpEncrypt_next h with ⟨-, rfl⟩ | ⟨_, -, -, rfl⟩ | ⟨k, rk, F, -, -, -, h⟩
  · exact .kept rfl rfl rfl rfl
  · exact .cleared
  rcases ccmpEncryptFrame_next h with ⟨-, rfl⟩ | ⟨-, -, rfl⟩ | ⟨-, -, -, rfl⟩ | ⟨hok, hmem, -, rfl⟩
  · exact .cleared
  · exact .cleared
  · exact .cleared
  · exact .delivered (by rw [ccmpProtect_length hok]; exact fits_of_noMem_false hmem)

theorem ccmpDecrypt_framesAfter (h : execCcmpDecrypt n s = .next t) : FramesAfter s t := by
  rcases execCcmpDecrypt_next h with ⟨-, rfl⟩ | ⟨_, -, -, rfl⟩ | ⟨k, rk, F, -, -, -, h⟩
  · exact .kept rfl rfl rfl rfl
  · exact .cleared
  rcases ccmpDecryptFrame_next h with ⟨_, -, rfl⟩ | ⟨-, hlen, -, -, hmem, -, rfl⟩
  · exact .cleared
  · exact .delivered (by rw [ccmpOpened_length hlen]; exact fits_of_noMem_false hmem)

theorem tkipEncrypt_framesAfter (h : execTkipEncrypt n s = .next t) : FramesAfter s t := by
  rcases execTkipEncrypt_next h with ⟨-, rfl⟩ | ⟨_, -, -, rfl⟩ | ⟨k, c, F, -, -, -, h⟩
  · exact .kept rfl rfl rfl rfl
  · exact .cleared
  rcases tkipEncryptFrame_next h with ⟨-, rfl⟩ | ⟨-, -, rfl⟩ | ⟨-, -, -, rfl⟩ | ⟨hok, hmem, -, e, rfl, rfl⟩
  · exact .cleared
  · exact .cleared
  · exact .cleared
  · exact .delivered (by rw [tkipSealed_length hok]; exact fits_of_noMem_false hmem)

theorem tkipDecrypt_framesAfter (h : execTkipDecrypt n s = .next t) : FramesAfter s t := by
  rcases execTkipDecrypt_next h with ⟨-, rfl⟩ | ⟨_, -, -, rfl⟩ | ⟨k, c, F, -, -, -, h⟩
  · exact .kept rfl rfl rfl rfl
  · exact .cleared
  rcases tkipDecryptFrame_next h with ⟨_, -, rfl⟩ | ⟨-, hlen, -, -, hmem, h⟩
  · exact .cleared
  obtain ⟨e, rfl, ⟨-, rfl⟩ | ⟨-, -, rfl⟩ | ⟨-, -, rfl⟩⟩ := tkipVerify_next h
  · exact .cleared
  · exact .cleared
  · exact .delivered (by rw [tkipOpened_length hlen]; exact fits_of_noMem_false hmem)

/-- Every command keeps the two frames, clears them, or delivers a frame that fits. -/
theorem exec_framesAfter {i : Instr} (h : exec i s = .next t) : FramesAfter s t := by
  have other : isFrame i = false → FramesAfter s t := fun hf => by
    obtain ⟨hin, hlen, hv, hbuf⟩ := (exec_ends h).frames_kept hf
    exact .kept hin hlen hv hbuf
  cases i with
  | ccmpEncrypt n => exact ccmpEncrypt_framesAfter h
  | ccmpDecrypt n => exact ccmpDecrypt_framesAfter h
  | tkipEncrypt n => exact tkipEncrypt_framesAfter h
  | tkipDecrypt n => exact tkipDecrypt_framesAfter h
  | _ => exact other rfl

/-- A command that ends keeps the input length or consumes the input (10 R27). -/
theorem FramesAfter.inlen (h : FramesAfter s t) : t.inlen = s.inlen ∨ t.inlen = 0 := by
  cases h with
  | kept hin => exact .inl hin
  | cleared => exact .inr rfl
  | delivered => exact .inr rfl

/-- Every command keeps the input half: it writes no octet of `INBUF` (20 R60). -/
theorem exec_inputOk {i : Instr} (h : exec i s = .next t) (hs : InputOk s) : InputOk t := by
  have hkept := (exec_ends h).hostSideKept
  refine hs.of_eq hkept.cfg hkept.inbuf ?_
  rcases (exec_framesAfter h).inlen with hin | hin
  · exact .inl hin
  · exact .inr (by simp [hin])

/-- Every command keeps the output half. -/
theorem exec_outputOk {i : Instr} (h : exec i s = .next t) (hs : OutputOk s) : OutputOk t := by
  have hcfg := (exec_ends h).hostSideKept.cfg
  cases exec_framesAfter h with
  | kept _ hlen hv hbuf => exact hs.of_eq hcfg hbuf hlen hv
  | cleared => exact outputOk_of_cleared rfl rfl rfl
  | delivered hfit => exact deliver_outputOk (by rw [← hcfg] at hfit; exact hfit)

end

/-! ### What a host access does to the two frames -/

/-- A host write of `INBUF` within its capacity keeps the input half (20 R60). -/
theorem inbufWrite_inputOk {s : State} {a : Nat} {bs : Octets} (hs : InputOk s) (h : a + bs.length ≤ s.cfg.incap) :
    InputOk { s with inbuf := memWriteAll s.inbuf a bs } :=
  ⟨memWriteAll_wf bs a hs.wf, memWriteAll_below bs a hs.below h, hs.fits⟩

/-- A free value drawn for an octet of `OUTBUF` takes no octet of the output frame away (20 R61, R69). -/
theorem drawOutput_outputOk {s : State} {a : Nat} (hs : OutputOk s) (h : a < s.cfg.outcap) :
    OutputOk (s.drawOutput a) := by
  refine ⟨memWrite_wf a _ hs.wf, memWrite_below _ a _ hs.below h, hs.fits, fun hv y hy => ?_, hs.absent⟩
  rw [State.drawOutput_outbuf]
  by_cases hya : y = a
  · rw [hya, memRead_memWrite_same]; simp
  · rw [memRead_memWrite_other _ _ _ _ hya]; exact hs.present hv y hy

/-- After the reset event both buffers hold nothing (70 R360). -/
theorem applyReset_inputOk (s : State) : InputOk s.applyReset := ⟨rfl, rfl, Nat.zero_le _⟩

theorem applyReset_outputOk (s : State) : OutputOk s.applyReset := outputOk_of_cleared rfl rfl rfl

/-- Settles O57: the input half changes by writes of `INBUF` and `INLEN`, the output half by frame commands and by the
draw for an octet without a value. -/
theorem stepKeepsTheBuffers : Obligations.StepKeepsTheBuffers := by
  intro s t hb hl h
  rw [buffersOk_and_lengthsOk_iff]
  obtain ⟨hi, ho⟩ := buffersOk_and_lengthsOk_iff.mp ⟨hb, hl⟩
  rcases step_next h with ⟨-, rfl⟩ | ⟨a, rest, u, -, hu, h⟩
  · exact ⟨hi, ho⟩
  replace hi : InputOk u := hi.of_eq (by rw [hu]) (by rw [hu]) (.inl (by rw [hu]))
  replace ho : OutputOk u := ho.of_eq (by rw [hu]) (by rw [hu]) (by rw [hu]) (by rw [hu])
  have same : ∀ {t : State}, t.cfg = u.cfg → t.inbuf = u.inbuf → t.inlen = u.inlen → t.outbuf = u.outbuf →
      t.outlen = u.outlen → t.outValid = u.outValid → InputOk t ∧ OutputOk t :=
    fun hcfg hib hil hob hol hv => ⟨hi.of_eq hcfg hib (.inl hil), ho.of_eq hcfg hob hol hv⟩
  rcases h with ⟨_, i, -, -, h⟩ | ⟨_, _, -, -, rfl⟩ | ⟨r, v, -, -, rfl⟩ | ⟨r, -, rfl⟩ | ⟨i, v, -, rfl⟩ | ⟨_, -, rfl⟩ |
    ⟨y, bs, -, hle, rfl⟩ | ⟨_, _, -, -, rfl⟩ | ⟨_, _, -, -, rfl⟩ | ⟨y, -, hlt, -, rfl⟩ | ⟨_, -, rfl⟩ | ⟨_, -, rfl⟩ |
    ⟨-, rfl⟩
  -- The accesses that write none of the six fields.
  any_goals exact same rfl rfl rfl rfl rfl rfl
  · exact ⟨exec_inputOk h hi, exec_outputOk h ho⟩
  · obtain ⟨n, fl, m, sl, td, heq, hn⟩ := csrWrite_eq u r v
    rw [heq]
    exact ⟨hi.of_eq rfl rfl hn, ho.of_eq rfl rfl rfl rfl⟩
  · obtain ⟨v, heq⟩ := csrRead_eq u r
    rw [heq]
    exact same rfl rfl rfl rfl rfl rfl
  · obtain ⟨o, heq⟩ := oprWrite_eq u i v
    rw [heq]
    exact same rfl rfl rfl rfl rfl rfl
  · exact ⟨inbufWrite_inputOk hi hle, ho.of_eq rfl rfl rfl rfl⟩
  · exact ⟨hi.of_eq rfl rfl (.inl rfl), (drawOutput_outputOk ho hlt).of_eq rfl rfl rfl rfl⟩
  · exact ⟨applyReset_inputOk u, applyReset_outputOk u⟩

end Sys2Proof.Proofs
end

section
/-! SUPPORT. The event queue, the failure record and the open parameters (10 R31, R37; 20 R63; 46 R300 to R306). -/

open Sys2Proof Sys2Proof.Machine Sys2Proof.Claims

namespace Sys2Proof.Proofs

variable {i : Instr} {s t u : State}

/-! ### The event queue -/

/-- The queue of `t` is that of `s` with at most `n` events appended (20 R63). -/
def Appends (n : Nat) (s t : State) : Prop := ∃ new : List Event, t.evtq = s.evtq ++ new ∧ new.length ≤ n

theorem appends_of_eq (n : Nat) (h : t.evtq = s.evtq) : Appends n s t := ⟨[], by simp [h], by simp⟩

theorem Appends.trans {m n : Nat} (h : Appends m s t) (h' : Appends n t u) : Appends (m + n) s u := by
  obtain ⟨new, heq, hlen⟩ := h
  obtain ⟨new', heq', hlen'⟩ := h'
  refine ⟨new ++ new', by rw [heq', heq, List.append_assoc], ?_⟩
  rw [List.length_append]
  omega

theorem Appends.mono {m n : Nat} (h : Appends m s t) (hmn : m ≤ n) : Appends n s t := by
  obtain ⟨new, heq, hlen⟩ := h
  exact ⟨new, heq, hlen.trans hmn⟩

/-- `emit` appends its event or, on a full queue, nothing (20 R63). -/
theorem emit_appends (s : State) (e : Event) : Appends 1 s (s.emit e) := by
  rw [emit_eq]
  by_cases h : s.evtq.length < s.cfg.evtcap
  · exact ⟨[e], by simp [h], by simp⟩
  · exact ⟨[], by simp [h], by simp⟩

/-- An escalation emits one event for an access point, four for a station (46 R304, R305). -/
theorem escalate_appends (s : State) (tsc : BitVec 48) : Appends 4 s (s.escalate tsc) := by
  unfold State.escalate
  split
  · exact (emit_appends s.setCountermeasures _).mono (by omega)
  · exact (((emit_appends _ _).trans (emit_appends _ _)).trans (emit_appends _ _)).trans (emit_appends _ _)

/-- The MIC-failure handler appends at most the events of one escalation (46 R300). -/
theorem handler_appends (s : State) (tsc : BitVec 48) : Appends 4 s (s.handler tsc) := by
  rcases handler_cases s tsc with ⟨-, h⟩ | ⟨-, -, h⟩ | ⟨-, -, h⟩
  · exact appends_of_eq 4 (by rw [h])
  · exact appends_of_eq 4 (by rw [h]; rfl)
  · rw [h]; exact escalate_appends s tsc

/-- Every command appends at most four events: only the two that run the handler append any (60 R330). -/
theorem Ends.appends (h : Ends s i t) : Appends 4 s t := by
  cases h with
  | micFailed _ _ _ tsc => exact handler_appends _ tsc
  | micReported => exact handler_appends s _
  | _ => exact appends_of_eq 4 rfl

/-- The MIC-failure handler keeps the queue within its capacity (20 R63). -/
theorem handler_queue_fits (hq : s.evtq.length ≤ s.cfg.evtcap) (tsc : BitVec 48) :
    (s.handler tsc).evtq.length ≤ (s.handler tsc).cfg.evtcap := by
  rcases handler_cases s tsc with ⟨-, h⟩ | ⟨-, -, h⟩ | ⟨-, -, h⟩
  · rw [h]; exact hq
  · rw [h]; exact hq
  · rw [h]; exact escalate_length (s := s) (tsc := tsc) hq

/-- Every command keeps the queue within its capacity (20 R63). -/
theorem Ends.queue_fits (h : Ends s i t) (hq : s.evtq.length ≤ s.cfg.evtcap) : t.evtq.length ≤ t.cfg.evtcap := by
  cases h with
  | @micFailed _ n _ k' _ _ _ tsc => exact handler_queue_fits (s := s.setSlot n.toNat k') hq tsc
  | micReported => exact handler_queue_fits hq _
  | _ => exact hq

/-- Settles O26. -/
theorem eventsAreOnlyAppended : Obligations.EventsAreOnlyAppended := by
  intro i s t h hq
  obtain ⟨new, heq, hlen⟩ := (exec_ends h).appends
  refine ⟨new, heq, hlen, ?_⟩
  rw [← (exec_ends h).hostSideKept.cfg]
  exact (exec_ends h).queue_fits hq

/-! ### The failure record -/

/-- No failure time or TSC is held before a failure was recorded (10 R31, R32, R37). -/
def RecordOk (s : State) : Prop := s.micfailSeen = false → s.micfailTick = 0 ∧ s.micfailTsc = 0

/-- The MIC-failure handler leaves the record alone or records a failure (46 R300). -/
theorem handler_recordOk (hs : RecordOk s) (tsc : BitVec 48) : RecordOk (s.handler tsc) := by
  rcases handler_cases s tsc with ⟨-, h⟩ | ⟨-, -, h⟩ | ⟨-, -, h⟩
  · rw [h]; exact hs
  · intro hseen; simp [h] at hseen
  · intro hseen; simp [h] at hseen

/-- Every command keeps the failure record consistent. -/
theorem Ends.recordOk (h : Ends s i t) (hs : RecordOk s) : RecordOk t := by
  cases h with
  | @micFailed _ n _ k' _ _ _ tsc => exact handler_recordOk (s := s.setSlot n.toNat k') hs tsc
  | micReported => exact handler_recordOk hs _
  | _ => exact hs

/-! ### Every step -/

/-- Taking the oldest event keeps the tracker (10 R34). -/
theorem popEvent_trackerOk (hs : s.TrackerOk) : s.popEvent.TrackerOk := by
  obtain ⟨hq, hrec⟩ := hs
  refine ⟨?_, hrec⟩
  rw [State.popEvent_evtq, List.length_tail, State.popEvent_cfg]
  omega

/-- After the reset event the queue is empty and no failure is recorded (70 R360). -/
theorem applyReset_trackerOk (s : State) : s.applyReset.TrackerOk := ⟨Nat.zero_le _, fun _ => ⟨rfl, rfl⟩⟩

/-- The reset event keeps the number of slots (70 R360). -/
theorem applyReset_nkeys (s : State) : s.applyReset.nkeys = s.nkeys := List.length_replicate

/-- Settles O59. -/
theorem stepKeepsTheTrackerAndTheParameters : Obligations.StepKeepsTheTrackerAndTheParameters := by
  intro s t hs h
  rcases step_next h with ⟨-, rfl⟩ | ⟨a, rest, u, -, hu, h⟩
  · exact ⟨hs, rfl, rfl⟩
  have hcfg : u.cfg = s.cfg := by rw [hu]
  have hkeys : u.nkeys = s.nkeys := by rw [hu]; rfl
  replace hs : u.TrackerOk := by rw [hu]; exact hs
  rw [← hcfg, ← hkeys]
  rcases h with ⟨_, i, -, -, h⟩ | ⟨_, _, -, -, rfl⟩ | ⟨r, v, -, -, rfl⟩ | ⟨r, -, rfl⟩ | ⟨i, v, -, rfl⟩ | ⟨_, -, rfl⟩ |
    ⟨y, bs, -, -, rfl⟩ | ⟨_, _, -, -, rfl⟩ | ⟨_, _, -, -, rfl⟩ | ⟨y, -, -, -, rfl⟩ | ⟨_, -, rfl⟩ | ⟨_, -, rfl⟩ |
    ⟨-, rfl⟩
  -- The accesses that write neither the tracker nor the parameters.
  any_goals exact ⟨hs, rfl, rfl⟩
  · have hkept := (exec_ends h).hostSideKept
    obtain ⟨hq, hrec⟩ := hs
    exact ⟨⟨(exec_ends h).queue_fits hq, (exec_ends h).recordOk hrec⟩, hkept.cfg, hkept.nkeys⟩
  · obtain ⟨n, fl, m, sl, td, heq, -⟩ := csrWrite_eq u r v
    rw [heq]
    exact ⟨hs, rfl, rfl⟩
  · by_cases hr : r = .evtPop
    · subst hr
      exact ⟨popEvent_trackerOk (s := u.setRdata _) hs, rfl, rfl⟩
    · rw [csrRead_plain hr]
      exact ⟨hs, rfl, rfl⟩
  · obtain ⟨o, heq⟩ := oprWrite_eq u i v
    rw [heq]
    exact ⟨hs, rfl, rfl⟩
  · exact ⟨applyReset_trackerOk u, rfl, applyReset_nkeys u⟩

end Sys2Proof.Proofs
end

section
/-! SUPPORT. Host accesses to the buffers, reads made twice, and commands on a frame that is not all written (20 R60,
R61, R65, R69). -/

open Sys2Proof Sys2Proof.Machine Sys2Proof.Claims

namespace Sys2Proof.Proofs

variable {s : State} {a : Nat} {b : Octet} {rest : List HostAccess}

/-! ### Reads and writes of the buffers -/

/-- A host write within `INCAP` stores its octets (20 R60). -/
theorem inbufWrite_fits {bs : Octets} (h : a + bs.length ≤ s.cfg.incap) :
    inbufWrite a bs s = .next { s with inbuf := memWriteAll s.inbuf a bs } := if_neg (by omega)

/-- A host read of an octet of `INBUF` that holds a value returns it (20 R60). -/
theorem inbufRead_held (h : a < s.cfg.incap) (hb : memRead s.inbuf a = some b) :
    inbufRead a s = .next (s.setRdata (b.setWidth 64)) := by
  rw [inbufRead, if_neg (by omega), hb]

/-- A host read of an octet of `OUTBUF` that holds a value returns it (20 R61). -/
theorem outbufRead_held (h : a < s.cfg.outcap) (hb : memRead s.outbuf a = some b) :
    outbufRead a s = .next (s.setRdata (b.setWidth 64)) := by
  rw [outbufRead, if_neg (by omega), hb]

/-- A host read of an octet of `OUTBUF` that holds no value draws one (U2, U3; entry 5). -/
theorem outbufRead_free (h : a < s.cfg.outcap) (hb : memRead s.outbuf a = none) :
    outbufRead a s = .next ((s.drawOutput a).setRdata ((Config.freeOctet s.freeCount).setWidth 64)) := by
  rw [outbufRead, if_neg (by omega), hb]

/-- Settles O55. -/
theorem inbufWriteStoresExactlyItsOctets : Obligations.InbufWriteStoresExactlyItsOctets := by
  intro s a bs rest h hle
  refine ⟨memWriteAll s.inbuf a bs, ?_, fun j hj => ?_, fun y hy => ?_⟩
  · rw [step_access h]
    exact inbufWrite_fits (s := { s with host := rest }) hle
  · rw [memRead_memWriteAll, if_pos (by omega), Nat.add_sub_cancel_left]
  · rw [memRead_memWriteAll, if_neg (by omega)]

/-- Settles O56. -/
theorem outbufReadsReturnTheOutputFrame : Obligations.OutbufReadsReturnTheOutputFrame := by
  intro s a rest h hlt
  refine ⟨fun v hv => ?_, fun hnone => ?_⟩
  · rw [step_access h]
    exact outbufRead_held (s := { s with host := rest }) hlt hv
  · refine ⟨Config.freeOctet s.freeCount, memWrite s.outbuf a (Config.freeOctet s.freeCount), ?_,
      memRead_memWrite_same _ _ _, fun y hy => memRead_memWrite_other _ _ _ _ hy⟩
    rw [step_access h]
    exact outbufRead_free (s := { s with host := rest }) hlt hnone

/-! ### The same read twice -/

/-- Two equal accesses in a row of which the second, in the state the first left, changes nothing. -/
theorem repeated_access {t : State} {x : HostAccess} (h : s.host = x :: x :: rest)
    (hfirst : hostAccess x { s with host := x :: rest } = .next t) (ht : t.host = x :: rest)
    (hsecond : hostAccess x { t with host := rest } = .next { t with host := rest }) :
    ∃ t, step s = .next t ∧ t.host = x :: rest ∧ step t = .next { t with host := rest } :=
  ⟨t, by rw [step_access h, hfirst], ht, by rw [step_access ht, hsecond]⟩

/-- Settles O51: a read leaves what it reads in place, so the second read returns the read data already there. An octet
of `OUTBUF` without a value holds one after the first read. -/
theorem repeatedReadsAgree : Obligations.RepeatedReadsAgree := by
  rintro s x rest h (⟨r, hr, rfl⟩ | ⟨j, rfl⟩ | ⟨y, hlt, hheld, rfl⟩ | ⟨y, hlt, rfl⟩)
  · refine ⟨_, step_csrRead_plain h hr, rfl, ?_⟩
    have hvalue : ({ s with host := .csrRead r :: rest, rdata := s.csrValue r } : State).csrValue r = s.csrValue r :=
      (csrValue_setRdata (s := { s with host := .csrRead r :: rest }) _ r).trans (csrValue_withHost s _ r)
    rw [step_csrRead_plain rfl hr, hvalue]
  · exact repeated_access h rfl rfl rfl
  · obtain ⟨b, hb⟩ := Option.ne_none_iff_exists'.mp hheld
    exact repeated_access h (inbufRead_held hlt hb) rfl (inbufRead_held hlt hb)
  · cases hb : memRead s.outbuf y with
    | some b => exact repeated_access h (outbufRead_held hlt hb) rfl (outbufRead_held hlt hb)
    | none =>
      exact repeated_access h (outbufRead_free hlt hb) rfl (outbufRead_held hlt (memRead_memWrite_same _ _ _))

/-! ### Frames that are not all written -/

/-- A frame is missing exactly when an octet below `INLEN` holds no value (20 R65). -/
theorem frame_eq_none : s.frame = none ↔ ∃ a, a < s.inlen.toNat ∧ memRead s.inbuf a = none := by
  rw [State.frame, memReadAll_eq_none]
  simp only [Nat.zero_add]

/-- On a slot with round keys the CCMP frame commands stop at a frame that is not all written (20 R65; entry 4). -/
theorem ccmp_unwritten {n : BitVec 8} {k : KeySlot} (hk : s.keys[n.toNat]? = some k) (hc : k.cipher = .ccmp)
    (hF : s.frame = none) :
    exec (.ccmpEncrypt n) s = .fault .inputUnwritten ∧ exec (.ccmpDecrypt n) s = .fault .inputUnwritten := by
  cases hctx : k.ctx with
  | absent | tkip => simp [KeySlot.cipher, hctx] at hc
  | ccmp rk => simp only [exec, execCcmpEncrypt, execCcmpDecrypt, withSlot_some hk, hctx, withFrame_none hF, and_self]

/-- On a slot with a TKIP context the TKIP frame commands stop at a frame that is not all written (20 R65; entry 4). -/
theorem tkip_unwritten {n : BitVec 8} {k : KeySlot} (hk : s.keys[n.toNat]? = some k) (hc : k.cipher = .tkip)
    (hF : s.frame = none) :
    exec (.tkipEncrypt n) s = .fault .inputUnwritten ∧ exec (.tkipDecrypt n) s = .fault .inputUnwritten := by
  cases hctx : k.ctx with
  | absent | ccmp => simp [KeySlot.cipher, hctx] at hc
  | tkip c => simp only [exec, execTkipEncrypt, execTkipDecrypt, withSlot_some hk, hctx, withFrame_none hF, and_self]

/-- Settles O18. -/
theorem unwrittenInputHasNoResult : Obligations.UnwrittenInputHasNoResult := fun _ =>
  ⟨frame_eq_none, withFrame_none, fun _ _ hk hF =>
    ⟨fun hc => ccmp_unwritten hk hc hF, fun hc => tkip_unwritten hk hc hF⟩⟩

end Sys2Proof.Proofs
end

section
/-! SUPPORT. The command word: a legal word and the command it selects determine each other, and every other word is
illegal and only sets the code (30 R90 to R92). -/

open Sys2Proof Sys2Proof.Machine Sys2Proof.Claims

namespace Sys2Proof.Proofs

variable {nkeys : Nat} {i : Instr} {w : BitVec 32}

/-! ### Words and their fields -/

/-- A word is its `SLOT` and `OP` fields, packed, when its reserved field is zero (30 R90). -/
theorem pack_fields (hres : reservedField w = 0) :
    ((slotField w).setWidth 32 <<< 8) ||| (opField w).setWidth 32 = w := by
  apply BitVec.eq_of_getLsbD_eq
  intro j hj
  have hbit : (reservedField w).getLsbD (j - 16) = false := by simp [hres]
  rcases Nat.lt_or_ge j 8 with hop | hop
  · simp [opField, slotField, hj, hop]
  rcases Nat.lt_or_ge j 16 with hslot | hslot
  · simp [opField, slotField, hj, hop, show ¬ j < 8 by omega, show j - 8 < 8 by omega]
  · have hzero : w[j] = false := by
      simpa [reservedField, show j - 16 < 16 by omega, hslot, hj] using hbit
    simp [opField, slotField, hj, show ¬ j < 8 by omega, show ¬ j - 8 < 8 by omega, hzero]

/-- A word is the word of a command exactly when its fields are (30 R90, R91). -/
theorem encode_eq_iff :
    encode i = w ↔ opField w = opcode i ∧ slotField w = i.slot?.getD 0 ∧ reservedField w = 0 := by
  constructor
  · rintro rfl
    exact Laws.WordFields.ofPack i
  · rintro ⟨hop, hslot, hres⟩
    rw [encode, ← hop, ← hslot, pack_fields hres]

/-! ### The decoder undoes the encoder, and the encoder the decoder -/

theorem decodeNoSlot_eq_ok_iff {j : Instr} : decodeNoSlot w j = .ok i ↔ slotField w = 0 ∧ j = i := by
  unfold decodeNoSlot
  split <;> simp_all

/-- A word selects the row whose word it is, and no other (30 R91). -/
theorem decode_eq_ok_iff : decode w = .ok i ↔ encode i = w := by
  refine ⟨fun h => encode_eq_iff.mpr ?_, fun h => h ▸ decode_encode i⟩
  unfold decode at h
  split at h
  · cases h
  next hres =>
  have hop {c : BitVec 8} (h : (opField w).toNat = c.toNat) : opField w = c := BitVec.eq_of_toNat_eq h
  rw [ne_eq, not_not] at hres
  split at h
  case h_9 h15 =>
    obtain ⟨hslot, rfl⟩ := decodeNoSlot_eq_ok_iff.mp h
    exact ⟨hop h15, hslot, hres⟩
  case h_10 h16 =>
    obtain ⟨hslot, rfl⟩ := decodeNoSlot_eq_ok_iff.mp h
    exact ⟨hop h16, hslot, hres⟩
  case h_11 => cases h
  all_goals
    next hcode =>
    cases h
    exact ⟨hop hcode, rfl, hres⟩

/-- A block decodes a word to a command exactly when it is that command's word and the command is legal (30 R92). -/
theorem decodeFor_eq_ok_iff : decodeFor nkeys w = .ok i ↔ encode i = w ∧ i.wellFormed nkeys = true := by
  refine ⟨fun h => ?_, fun ⟨hw, hwf⟩ => hw ▸ decodeFor_encode hwf⟩
  unfold decodeFor at h
  split at h
  · cases h
  next j hj =>
  split at h
  · next hwf =>
    cases h
    exact ⟨decode_eq_ok_iff.mp hj, hwf⟩
  · cases h

/-- Settles O1. -/
theorem everyCommandDecodesFromItsWord : Obligations.EveryCommandDecodesFromItsWord :=
  fun _ _ hwf => decodeFor_eq_ok_iff.mpr ⟨rfl, hwf⟩

/-- Settles O2. -/
theorem everyLegalWordEncodesItsCommand : Obligations.EveryLegalWordEncodesItsCommand :=
  fun _ _ _ h => decodeFor_eq_ok_iff.mp h

/-- Settles O4, row by row of the table: the legal words are those of their commands. -/
theorem writtenWordsDecode : Obligations.WrittenWordsDecode :=
  ⟨decodeFor_encode (i := .ccmpSetKey 0) rfl, decodeFor_encode (i := .ccmpDeleteKey 3) rfl,
   decodeFor_encode (i := .ccmpEncrypt 3) rfl, decodeFor_encode (i := .ccmpDecrypt 1) rfl,
   decodeFor_encode (i := .tkipSetKey 2) rfl, decodeFor_encode (i := .tkipDeleteKey 1) rfl,
   decodeFor_encode (i := .tkipEncrypt 3) rfl, decodeFor_encode (i := .tkipDecrypt 0) rfl,
   decodeFor_encode (i := .tkipMic) rfl, decodeFor_encode (i := .micFailure) rfl, rfl, rfl, rfl, rfl⟩

/-! ### Illegal words -/

/-- The codes of the commands that take a slot (30 R91). -/
def slottedOps : List (BitVec 8) := [0x01, 0x02, 0x03, 0x04, 0x11, 0x12, 0x13, 0x14]

/-- The codes of the commands that take none (30 R91). -/
def slotlessOps : List (BitVec 8) := [0x15, 0x16]

theorem not_illegalWord_iff_fields : ¬ illegalWord nkeys w ↔
    reservedField w = 0 ∧ opField w ∈ slottedOps ++ slotlessOps ∧ (opField w ∈ slotlessOps → slotField w = 0) ∧
    (opField w ∈ slottedOps → (slotField w).toNat < nkeys) := by
  have fields : illegalWord nkeys w ↔ reservedField w ≠ 0 ∨ opField w ∉ slottedOps ++ slotlessOps ∨
      (opField w ∈ slotlessOps ∧ slotField w ≠ 0) ∨ (opField w ∈ slottedOps ∧ nkeys ≤ (slotField w).toNat) := Iff.rfl
  simp only [fields, not_or, not_and, ne_eq, not_not, not_le]

theorem opcode_mem_slottedOps : opcode i ∈ slottedOps ↔ i.slot? ≠ none := by
  cases i <;> simp [opcode, slottedOps, Instr.slot?]

theorem opcode_mem_slotlessOps : opcode i ∈ slotlessOps ↔ i.slot? = none := by
  cases i <;> simp [opcode, slotlessOps, Instr.slot?]

/-- Each code of the first kind is that of a command, whatever slot it names (30 R91). -/
theorem exists_slotted {op : BitVec 8} (h : op ∈ slottedOps) (n : BitVec 8) :
    ∃ i, opcode i = op ∧ i.slot? = some n := by
  simp only [slottedOps, List.mem_cons, List.not_mem_nil, or_false] at h
  rcases h with rfl | rfl | rfl | rfl | rfl | rfl | rfl | rfl
  · exact ⟨.ccmpSetKey n, rfl, rfl⟩
  · exact ⟨.ccmpDeleteKey n, rfl, rfl⟩
  · exact ⟨.ccmpEncrypt n, rfl, rfl⟩
  · exact ⟨.ccmpDecrypt n, rfl, rfl⟩
  · exact ⟨.tkipSetKey n, rfl, rfl⟩
  · exact ⟨.tkipDeleteKey n, rfl, rfl⟩
  · exact ⟨.tkipEncrypt n, rfl, rfl⟩
  · exact ⟨.tkipDecrypt n, rfl, rfl⟩

/-- Each code of the second kind is that of a command without a slot (30 R91). -/
theorem exists_slotless {op : BitVec 8} (h : op ∈ slotlessOps) : ∃ i, opcode i = op ∧ i.slot? = none := by
  simp only [slotlessOps, List.mem_cons, List.not_mem_nil, or_false] at h
  rcases h with rfl | rfl
  · exact ⟨.tkipMic, rfl, rfl⟩
  · exact ⟨.micFailure, rfl, rfl⟩

theorem wellFormed_iff : i.wellFormed nkeys = true ↔ ∀ n, i.slot? = some n → n.toNat < nkeys := by
  cases h : i.slot? <;> simp [Instr.wellFormed, h]

/-- The words that meet none of the conditions of 30 R92 are the words of the legal commands. -/
theorem not_illegalWord_iff : ¬ illegalWord nkeys w ↔ ∃ i, encode i = w ∧ i.wellFormed nkeys = true := by
  rw [not_illegalWord_iff_fields]
  constructor
  · rintro ⟨hres, hop, hzero, hslot⟩
    rcases List.mem_append.mp hop with hop | hop
    · obtain ⟨i, hi, hn⟩ := exists_slotted hop (slotField w)
      exact ⟨i, encode_eq_iff.mpr ⟨hi.symm, by simp [hn], hres⟩, wellFormed_iff.mpr (by simpa [hn] using hslot hop)⟩
    · obtain ⟨i, hi, hn⟩ := exists_slotless hop
      exact ⟨i, encode_eq_iff.mpr ⟨hi.symm, by simpa [hn] using hzero hop, hres⟩, wellFormed_iff.mpr (by simp [hn])⟩
  · rintro ⟨i, hw, hwf⟩
    obtain ⟨hop, hslot, hres⟩ := encode_eq_iff.mp hw
    rw [hop, hslot, List.mem_append, opcode_mem_slottedOps, opcode_mem_slotlessOps]
    refine ⟨hres, ne_or_eq _ _, fun hn => by simp [hn], fun hn => ?_⟩
    obtain ⟨n, hn⟩ := Option.ne_none_iff_exists'.mp hn
    simpa [hn] using wellFormed_iff.mp hwf n hn

/-- A block either decodes a word to a command or refuses it (30 R92). -/
theorem decodeFor_error_iff : (∃ e, decodeFor nkeys w = .error e) ↔ ¬ ∃ i, decodeFor nkeys w = .ok i := by
  cases decodeFor nkeys w <;> simp

/-- The refused words are the illegal ones (30 R92). -/
theorem illegalWord_iff : illegalWord nkeys w ↔ ∃ e, decodeFor nkeys w = .error e := by
  simp only [decodeFor_error_iff, decodeFor_eq_ok_iff, ← not_illegalWord_iff, not_not]

/-- Settles O3. -/
theorem illegalWordsAreTheseAndOnlySetTheCode : Obligations.IllegalWordsAreTheseAndOnlySetTheCode := by
  refine ⟨fun _ _ => illegalWord_iff, fun nkeys w h => ?_, fun s v rest hhost h => ?_⟩
  · obtain ⟨i, hi⟩ := not_illegalWord_iff.mp h
    have hi := decodeFor_eq_ok_iff.mpr hi
    exact ⟨i, hi, fun j hj => Except.ok.inj (hj.symm.trans hi)⟩
  · obtain ⟨e, he⟩ := illegalWord_iff.mp h
    have he' : decodeFor ({ s with host := rest } : State).nkeys (v.setWidth 32) = .error e := he
    rw [step_access hhost, hostAccess, runWord, he']
    rfl

end Sys2Proof.Proofs
end

section
/-! SUPPORT. The formats of protected frames: what CCMP_ENCRYPT puts out, which header bits the AAD and the nonce read,
and the key octets a TKIP header shows (30 R100 to R105, R110, R113). -/

open Sys2Proof Sys2Proof.Machine Sys2Proof.Claims

namespace Sys2Proof.Proofs

/-! ### CCMP_ENCRYPT -/

theorem noMem_eq_false {s : State} {n : Nat} (h : ¬ noRoom s n) : s.noMem n = false := by
  simpa [State.noMem] using h

/-- Writing a slot and delivering a frame is the success the statements write out (20 R61; 42 R188). -/
theorem deliver_setSlot (s : State) (n : Nat) (k : KeySlot) (out : Octets) :
    (s.setSlot n k).deliver out = frameSuccess s (s.keys.set n k) out := rfl

/-- CCMP_ENCRYPT of an admitted frame with room for its output and a counter below its top (42 R188). -/
theorem ccmpEncryptFrame_admitted {n : BitVec 8} {s : State} {k : KeySlot} {rk : List Block} {F : Octets}
    (hok : headerOk F = true) (hroom : ¬ noRoom s (F.length + 16)) (htop : k.tsc ≠ counterMax) :
    ccmpEncryptFrame n s k rk F = .next (frameSuccess s (s.keys.set n.toNat { k with tsc := k.tsc + 1 })
      (ccmpProtect rk k.id (k.tsc + 1) F)) := by
  simp [ccmpEncryptFrame, hok, noMem_eq_false hroom, htop, deliver_setSlot]

/-- A CCMP command on a slot with round keys and a frame that is all written (42 R188). -/
theorem exec_ccmpEncrypt {n : BitVec 8} {s : State} {k : KeySlot} {rk : List Block} {F : Octets}
    (hk : s.keys[n.toNat]? = some k) (hc : k.ctx = .ccmp rk) (hF : s.frame = some F) :
    exec (.ccmpEncrypt n) s = ccmpEncryptFrame n s k rk F := by
  simp only [exec, execCcmpEncrypt, withSlot_some hk, hc, withFrame_some hF]

/-- Settles O10. -/
theorem ccmpEncryptProtectsTheFrame : Obligations.CcmpEncryptProtectsTheFrame := by
  rintro n s k rk F _ hk hc hF hok hroom htop rfl
  rw [exec_ccmpEncrypt hk hc hF, ccmpEncryptFrame_admitted hok hroom htop]
  rfl

/-! ### The bits the AAD and the nonce read -/

/-- The bits of octet `i` of a frame that reach the AAD or the nonce (30 R103, R105). -/
def authMask (F : Octets) (i : Nat) : Octet :=
  if i = 0 ∨ (4 ≤ i ∧ i < 22) ∨ (hasAddr4 F = true ∧ 24 ≤ i ∧ i < 30) then 0xFF
  else if i = 1 then 0xC7
  else if i = 22 ∨ (hasQos F = true ∧ i = qosOffset F) then 0x0F
  else 0

theorem authMask_of_lt {F : Octets} {i : Nat} (h : i < 24) :
    authMask F i = if i = 0 ∨ (4 ≤ i ∧ i < 22) then 0xFF else if i = 1 then 0xC7 else if i = 22 then 0x0F else 0 := by
  have haddr : ¬ 24 ≤ i := by omega
  have hqos : i ≠ qosOffset F := by unfold qosOffset; split <;> omega
  simp [authMask, haddr, hqos]

theorem authMask_qosOffset {F : Octets} (hq : hasQos F = true) : authMask F (qosOffset F) = 0x0F := by
  unfold authMask qosOffset
  cases hasAddr4 F <;> simp [hq]

/-- Above the sequence control, Address 4 and the first QoS control octet are all that is authenticated (30 R105). -/
theorem authMask_eq_zero {F : Octets} {i : Nat} (h : 24 ≤ i) (ha : hasAddr4 F = true → 30 ≤ i)
    (hq : hasQos F = true → i ≠ qosOffset F) : authMask F i = 0 := by
  have haddr : ¬ (i = 0 ∨ (4 ≤ i ∧ i < 22) ∨ (hasAddr4 F = true ∧ 24 ≤ i ∧ i < 30)) := by
    rintro (h0 | h4 | ⟨h1, -, h30⟩)
    · omega
    · omega
    · exact absurd (ha h1) (by omega)
  have hqos : ¬ (i = 22 ∨ (hasQos F = true ∧ i = qosOffset F)) := by
    rintro (h22 | ⟨h1, heq⟩)
    · omega
    · exact hq h1 heq
  rw [authMask, if_neg haddr, if_neg (by omega), if_neg hqos]

/-- Where QoS control begins: after the sequence control, and after Address 4 where there is one (40 R130). -/
theorem qosOffset_bounds (F : Octets) : 24 ≤ qosOffset F ∧ (hasAddr4 F = true → 30 ≤ qosOffset F) := by
  unfold qosOffset
  cases hasAddr4 F <;> simp

/-- QoS control and HT control, where present, end the header (40 R134). -/
theorem hdrlen_eq (F : Octets) :
    hdrlen F = qosOffset F + (if hasQos F then 2 else 0) + (if hasHtc F then 4 else 0) := by
  unfold hdrlen qosOffset
  cases hasAddr4 F <;> rfl

/-- Of QoS control only the first octet is read (30 R105). -/
theorem authMask_qosOffset_succ (F : Octets) : authMask F (qosOffset F + 1) = 0 := by
  obtain ⟨hlow, haddr⟩ := qosOffset_bounds F
  exact authMask_eq_zero (by omega) (fun ha => by have := haddr ha; omega) (fun _ => by omega)

/-- No bit of the HT control field, the last four octets of its header, is authenticated (30 R105). -/
theorem authMask_htc {F : Octets} {i : Nat} (hh : hasHtc F = true) (hi : hdrlen F - 4 ≤ i) : authMask F i = 0 := by
  obtain ⟨hlow, haddr⟩ := qosOffset_bounds F
  have hoff : qosOffset F + (if hasQos F then 2 else 0) ≤ i := by simpa [hdrlen_eq, hh] using hi
  refine authMask_eq_zero (by omega) (fun ha => by have := haddr ha; omega) (fun hq => ?_)
  rw [if_pos hq] at hoff
  omega

/-- `G` carries the authenticated bits of `F`. -/
structure SameAuthBits (F G : Octets) : Prop where
  length : G.length = F.length
  octet : ∀ i, oct G i &&& authMask F i = oct F i &&& authMask F i

theorem oct_set (F : Octets) (j i : Nat) (b : Octet) :
    oct (F.set j b) i = if i = j ∧ j < F.length then b else oct F i := by
  by_cases hij : i = j
  · subst hij
    by_cases hlt : i < F.length <;> simp [oct, List.getD_eq_getElem?_getD, hlt]
  · simp [oct, List.getD_eq_getElem?_getD, hij, Ne.symm hij]

theorem slice_eq_of_oct {F G : Octets} {i j : Nat} (hl : G.length = F.length)
    (h : ∀ n, i ≤ n → n < j → oct G n = oct F n) : slice G i j = slice F i j := by
  apply List.ext_getElem
  · simp [slice_length, hl]
  · intro n h₁ h₂
    rw [slice_length] at h₁ h₂
    have := h (i + n) (by omega) (by omega)
    simpa [slice, oct, List.getD_eq_getElem?_getD, List.getElem?_eq_getElem (show i + n < F.length by omega),
      List.getElem?_eq_getElem (show i + n < G.length by omega)] using this

theorem SameAuthBits.refl (F : Octets) : SameAuthBits F F := ⟨rfl, fun _ => rfl⟩

/-- Writing an octet that agrees with `F` in its authenticated bits. -/
theorem SameAuthBits.set {F G : Octets} (h : SameAuthBits F G) {j : Nat} {b : Octet}
    (hb : b &&& authMask F j = oct F j &&& authMask F j) : SameAuthBits F (G.set j b) := by
  refine ⟨by rw [List.length_set, h.length], fun i => ?_⟩
  rw [oct_set]
  split
  · next hij => rw [hij.1, hb]
  · exact h.octet i

/-- Writing an octet none of whose bits is authenticated. -/
theorem SameAuthBits.set_free {F G : Octets} (h : SameAuthBits F G) {j : Nat} (hj : authMask F j = 0) (b : Octet) :
    SameAuthBits F (G.set j b) := h.set (by simp [hj])

section
variable {F G : Octets} (h : SameAuthBits F G)
include h

theorem SameAuthBits.whole {i : Nat} (hi : authMask F i = 0xFF) : oct G i = oct F i := by
  have := h.octet i
  rw [hi] at this
  exact (BitVec.and_allOnes (x := oct G i)).symm.trans (this.trans BitVec.and_allOnes)

theorem SameAuthBits.octet0 : oct G 0 = oct F 0 := h.whole (by simp [authMask])

/-- The bits of octet 1 that R105 keeps, and every part of them. -/
theorem SameAuthBits.octet1 (m : Octet) (hm : 0xC7 &&& m = m) : oct G 1 &&& m = oct F 1 &&& m := by
  have : oct G 1 &&& 0xC7 = oct F 1 &&& 0xC7 := by simpa [authMask] using h.octet 1
  rw [← hm, ← BitVec.and_assoc, this, BitVec.and_assoc]

theorem SameAuthBits.fragment : oct G 22 &&& 0x0F = oct F 22 &&& 0x0F := by
  simpa [authMask] using h.octet 22

theorem SameAuthBits.tid (hq : hasQos F = true) :
    oct G (qosOffset F) &&& 0x0F = oct F (qosOffset F) &&& 0x0F := by
  simpa [authMask_qosOffset hq] using h.octet (qosOffset F)

theorem SameAuthBits.addresses {i j : Nat} (hi : 4 ≤ i) (hj : j ≤ 22) : slice G i j = slice F i j :=
  slice_eq_of_oct h.length fun n hn hn' => h.whole (by simp [authMask, show 4 ≤ n by omega, show n < 22 by omega])

theorem SameAuthBits.addr4_eq (ha : hasAddr4 F = true) : addr4 G = addr4 F :=
  slice_eq_of_oct h.length fun n hn hn' => h.whole (by simp [authMask, ha, hn, hn'])

theorem SameAuthBits.hasAddr4_eq : hasAddr4 G = hasAddr4 F := by
  simp only [hasAddr4, h.octet1 0x03 rfl]
theorem SameAuthBits.hasQos_eq : hasQos G = hasQos F := by simp only [hasQos, h.octet0]
theorem SameAuthBits.isMgmt_eq : isMgmt G = isMgmt F := by simp only [isMgmt, ftype, h.octet0]
theorem SameAuthBits.isData_eq : isData G = isData F := by simp only [isData, ftype, h.octet0]
theorem SameAuthBits.hasHtc_eq : hasHtc G = hasHtc F := by
  simp only [hasHtc, h.octet1 0x80 rfl, h.hasQos_eq, h.isMgmt_eq]
theorem SameAuthBits.qosOffset_eq : qosOffset G = qosOffset F := by simp only [qosOffset, h.hasAddr4_eq]

end

theorem lo8_getQos (F : Octets) : lo8 (getQos F) = oct F (qosOffset F) := by
  rw [lo8, getQos, le16, mk16, BitVec.extractLsb'_append_eq_of_add_le (by decide), BitVec.extractLsb'_eq_self]

/-- The TID is the low half of the first QoS control octet (40 R136, R137). -/
theorem getTid_of_hasQos {F : Octets} (hq : hasQos F = true) :
    getTid F = (oct F (qosOffset F) &&& 0x0F).setWidth 4 := by
  have hlow : (0x0F : Octet).setWidth 4 = BitVec.allOnes 4 := rfl
  rw [getTid, if_pos hq, getQos, le16, mk16, BitVec.extractLsb'_append_eq_of_add_le (by decide), BitVec.setWidth_and,
    hlow, BitVec.and_allOnes, BitVec.setWidth_eq_extractLsb' (by decide)]

section
variable {F G : Octets} (h : SameAuthBits F G)
include h

theorem SameAuthBits.getTid_eq : getTid G = getTid F := by
  cases hq : hasQos F with
  | false => simp [getTid, h.hasQos_eq, hq]
  | true => rw [getTid_of_hasQos hq, getTid_of_hasQos (h.hasQos_eq.trans hq), h.qosOffset_eq, h.tid hq]

/-- The nonce reads authenticated bits only (30 R103). -/
theorem SameAuthBits.ccmNonce_eq (pn : BitVec 48) : ccmNonce G pn = ccmNonce F pn := by
  simp only [ccmNonce, nonceFlags, h.getTid_eq, h.isMgmt_eq, addr2,
    h.addresses (show 4 ≤ 10 by omega) (show 16 ≤ 22 by omega)]

/-- The AAD reads authenticated bits only (30 R105). -/
theorem SameAuthBits.aad_eq : aad G = aad F := by
  have haddr : (if hasAddr4 F then addr4 G else []) = (if hasAddr4 F then addr4 F else []) := by
    split
    · next ha => rw [h.addr4_eq ha]
    · rfl
  have hqos : (if hasQos F then [lo8 (getQos G) &&& 0x0F, 0] else []) =
      (if hasQos F then [lo8 (getQos F) &&& 0x0F, 0] else []) := by
    split
    · next hq => rw [lo8_getQos, lo8_getQos, h.qosOffset_eq, h.tid hq]
    · rfl
  simp only [aad, h.isData_eq, h.hasHtc_eq, h.hasAddr4_eq, h.hasQos_eq, h.octet0, h.fragment,
    h.octet1 0xC7 rfl, h.addresses (show 4 ≤ 4 by omega) (show 22 ≤ 22 by omega), haddr, hqos]

/-- The AAD area and the nonce depend on the authenticated bits alone (30 R103 to R105). -/
theorem SameAuthBits.ccmInputs (pn : BitVec 48) : ccmAuth G = ccmAuth F ∧ ccmNonce G pn = ccmNonce F pn :=
  ⟨by simp only [ccmAuth, aadLen, h.aad_eq, h.hasAddr4_eq, h.hasQos_eq], h.ccmNonce_eq pn⟩

end

/-! ### The fields outside those bits -/

/-- Flipping bits outside a mask keeps the bits under it. -/
theorem xor_and_of_disjoint {m n : Octet} (hmn : n &&& m = 0) (a v : Octet) : (a ^^^ (v &&& n)) &&& m = a &&& m := by
  ext i hi
  have hbit : (n[i] && m[i]) = false := by simpa [hi] using congrArg (fun b : Octet => b.getLsbD i) hmn
  simp only [BitVec.getElem_and, BitVec.getElem_xor]
  revert hbit
  cases m[i] <;> cases n[i] <;> simp

/-- Settles O42: each of the changes only writes octets that keep their authenticated bits. -/
theorem unauthenticatedFieldsDoNotMatter : Obligations.UnauthenticatedFieldsDoNotMatter := by
  intro F x y z v w pn _
  have hfree := SameAuthBits.refl F
  refine ⟨fun G hG => ?_, fun hq G hG => ?_, fun hh j hlo _ => ?_⟩
  · simp only [List.mem_cons, List.not_mem_nil, or_false] at hG
    rcases hG with rfl | rfl | rfl
    · exact ((hfree.set_free (by simp [authMask_of_lt]) x).set_free (by simp [authMask_of_lt]) y).ccmInputs pn
    · exact ((hfree.set_free (by simp [authMask_of_lt]) z).set (by
        rw [authMask_of_lt (by decide)]; exact xor_and_of_disjoint rfl _ v)).ccmInputs pn
    · exact (hfree.set (by rw [authMask_of_lt (by decide)]; exact xor_and_of_disjoint rfl _ w)).ccmInputs pn
  · subst hG
    exact ((hfree.set_free (authMask_qosOffset_succ F) z).set (by
      rw [authMask_qosOffset hq]; exact xor_and_of_disjoint rfl _ v)).ccmInputs pn
  · exact (hfree.set_free (authMask_htc hh hlo) x).ccmInputs pn

/-! ### The TKIP header -/

theorem hi8_iv16 (tsc : BitVec 48) : hi8 (iv16 tsc) = pnOctet tsc 1 := by
  simp [hi8, iv16, pnOctet]

theorem lo8_iv16 (tsc : BitVec 48) : lo8 (iv16 tsc) = pnOctet tsc 0 := by
  simp [lo8, iv16, pnOctet]

/-- Settles O43. -/
theorem tkipHeaderShowsTheKeyPrefix : Obligations.TkipHeaderShowsTheKeyPrefix := by
  intro tk p1k tsc id
  refine ⟨?_, rfl, rc4Key_length _ _ _⟩
  simp only [phase2, rc4Key, tkipHeader, hi8_iv16, lo8_iv16, List.take_succ_cons, List.take_zero]

end Sys2Proof.Proofs
end

section
/-! SUPPORT. The layout of the two CCM inputs: the lengths of the header and of the AAD, the AAD area of two blocks, and the
nonce (30 R103 to R105; 40 R134). -/

open Sys2Proof Sys2Proof.Machine Sys2Proof.Claims

namespace Sys2Proof.Proofs

/-- The octets between a string's first part and its last. -/
theorem slice_middle {s a b c : Octets} {i j : Nat} (hs : s = a ++ b ++ c) (hi : i = a.length)
    (hj : j = a.length + b.length) : slice s i j = b := by
  subst hs hi hj
  simp [slice]

/-- The three optional fields give seven header lengths: 30 comes from Address 4 alone and from QoS with HT control. -/
theorem hdrlen_mem (F : Octets) : hdrlen F ∈ [24, 26, 28, 30, 32, 34, 36] := by
  unfold hdrlen
  cases hasAddr4 F <;> cases hasQos F <;> cases hasHtc F <;> decide

/-- Address 4 and QoS control are the two optional fields the AAD takes over (30 R105). -/
theorem aadLen_mem (F : Octets) : aadLen F ∈ [22, 24, 28, 30] := by
  unfold aadLen
  cases hasAddr4 F <;> cases hasQos F <;> decide

theorem aadLen_le (F : Octets) : aadLen F ≤ 30 := by
  unfold aadLen
  split <;> split <;> decide

/-- A field that ends within the header is whole in an admitted frame (40 R135). -/
theorem slice_length_of_headerOk {F : Octets} (h : headerOk F = true) {i j : Nat} (hj : j ≤ hdrlen F) :
    (slice F i j).length = j - i := by
  have hfit := headerOk_hdrlen h
  rw [slice_length]
  omega

/-- Address 4, where there is one, is whole in an admitted frame (40 R130, R135). -/
theorem addr4_length {F : Octets} (h : headerOk F = true) (ha : hasAddr4 F = true) : (addr4 F).length = 6 :=
  slice_length_of_headerOk h (by rw [hdrlen, if_pos ha]; omega)

/-- The AAD of an admitted frame has the length its length field gives (30 R104, R105). -/
theorem aad_length {F : Octets} (h : headerOk F = true) : (aad F).length = aadLen F := by
  have haddrs : (slice F 4 22).length = 18 := slice_length_of_headerOk h (by have := hdrlen_ge F; omega)
  have haddr4 : (if hasAddr4 F then addr4 F else []).length = if hasAddr4 F then 6 else 0 := by
    split
    · next ha => exact addr4_length h ha
    · rfl
  have hqos : (if hasQos F then [lo8 (getQos F) &&& 0x0F, 0] else []).length = if hasQos F then 2 else 0 := by
    split <;> rfl
  simp only [aad, aadLen, List.length_append, haddrs, haddr4, hqos, List.length_cons, List.length_nil]

/-- The AAD area of an admitted frame, with the length field read off the AAD itself (30 R104). -/
theorem ccmAuth_eq {F : Octets} (h : headerOk F = true) :
    ccmAuth F = be16 (BitVec.ofNat 16 (aad F).length) ++ aad F ++ zeros (30 - (aad F).length) := by
  rw [aad_length h, ccmAuth]

/-- The AAD area fills exactly two blocks (30 R104). -/
theorem ccmAuth_length {F : Octets} (h : headerOk F = true) : (ccmAuth F).length = 32 := by
  have hle := aadLen_le F
  simp only [ccmAuth, List.length_append, be16_length, aad_length h, zeros_length]
  omega

/-- One octet of flags, six of Address 2 and six of the counter (30 R103). -/
theorem ccmNonce_length {F : Octets} (h : headerOk F = true) (pn : BitVec 48) : (ccmNonce F pn).length = 13 := by
  have haddr2 : (addr2 F).length = 6 := slice_length_of_headerOk h (by have := hdrlen_ge F; omega)
  simp only [ccmNonce, List.length_append, List.length_cons, List.length_nil, haddr2]

/-- Settles O41: the three parts of the AAD area are cut at the AAD's own length. -/
theorem aadAreaIsTwoBlocks : Obligations.AadAreaIsTwoBlocks := by
  intro F hok
  have harea := ccmAuth_eq hok
  have hle : (aad F).length ≤ 30 := (aad_length hok).trans_le (aadLen_le F)
  refine ⟨hdrlen_mem F, aad_length hok ▸ aadLen_mem F, ccmAuth_length hok, ?length, ?aad, ?zeros, ccmNonce_length hok⟩
  case length => exact slice_middle (a := []) (harea.trans (List.append_assoc _ _ _)) rfl rfl
  case aad => exact slice_middle harea rfl rfl
  case zeros =>
    refine slice_middle (c := []) (harea.trans (List.append_nil _).symm) ?_ ?_
    · simp
    · simp; omega

end Sys2Proof.Proofs
end

section
/-! SUPPORT. RC4 as a stream: successive calls continue one keystream, and the same run undoes itself (41 R157). -/

open Sys2Proof Sys2Proof.Machine Sys2Proof.Claims

namespace Sys2Proof.Proofs

/-- One octet takes one turn of the generator, and the rest goes on from the engine after it (41 R157). -/
theorem rc4Crypt_cons (st : Rc4) (d : Octet) (ds : Octets) :
    rc4Crypt st (d :: ds) =
      ((d ^^^ (rc4Next st).2) :: (rc4Crypt (rc4Next st).1 ds).1, (rc4Crypt (rc4Next st).1 ds).2) := rfl

/-- The second call goes on from the engine the first one left. -/
theorem rc4Crypt_append (st : Rc4) (x y : Octets) :
    rc4Crypt st (x ++ y) =
      ((rc4Crypt st x).1 ++ (rc4Crypt (rc4Crypt st x).2 y).1, (rc4Crypt (rc4Crypt st x).2 y).2) := by
  induction x generalizing st with
  | nil => rfl
  | cons d x ih => simp only [List.cons_append, rc4Crypt_cons, ih]

/-- The turns of the generator do not read the data, so the second run meets each octet with the keystream octet of the
first, and the two cancel. -/
theorem rc4Crypt_crypt (st : Rc4) (x : Octets) : (rc4Crypt st (rc4Crypt st x).1).1 = x := by
  induction x generalizing st with
  | nil => rfl
  | cons d x ih =>
    have hcancel : d ^^^ (rc4Next st).2 ^^^ (rc4Next st).2 = d := by
      rw [BitVec.xor_assoc, BitVec.xor_self, BitVec.xor_zero]
    simp only [rc4Crypt_cons, hcancel, ih]

/-- Settles O36. -/
theorem rc4ContinuesAndUndoesItself : Obligations.Rc4ContinuesAndUndoesItself := by
  intro st x y
  obtain ⟨hout, hend⟩ := Prod.ext_iff.mp (rc4Crypt_append st x y)
  exact ⟨hout, hend, rc4Crypt_crypt st x⟩

end Sys2Proof.Proofs
end

section
/-! SUPPORT. The CCMP key commands: what CCMP_SET_KEY and CCMP_DELETE_KEY do on an existing slot, and the command word
as three fields side by side (30 R90; 42 R180, R181). -/

open Sys2Proof Sys2Proof.Machine Sys2Proof.Claims

namespace Sys2Proof.Proofs

variable {n : BitVec 8} {s : State} {k : KeySlot}

/-- The word of a command is its reserved field, its slot and its operation code side by side (30 R90). -/
theorem encode_eq_append (i : Instr) :
    encode i = ((0 : BitVec 16) ++ i.slot?.getD 0 ++ opcode i : BitVec (16 + 8 + 8)) := by
  refine encode_eq_iff.mpr ⟨?_, ?_, ?_⟩
  · exact (BitVec.extractLsb'_append_eq_of_add_le (by decide)).trans BitVec.extractLsb'_eq_self
  · exact (BitVec.extractLsb'_append_eq_of_le (by decide)).trans
      ((BitVec.extractLsb'_append_eq_of_add_le (by decide)).trans BitVec.extractLsb'_eq_self)
  · exact (BitVec.extractLsb'_append_eq_of_le (by decide)).trans
      ((BitVec.extractLsb'_append_eq_of_le (by decide)).trans BitVec.extractLsb'_eq_self)

/-- CCMP_SET_KEY stores the 16 key octets above 16 zeros (42 R180). -/
theorem ccmpInstall_key (s : State) : s.ccmpInstall.key.toList = slice s.keyin 0 16 ++ zeros 16 :=
  keyField_toList (by simp [slice_length])

theorem exec_ccmpSetKey_noMem (hk : s.keys[n.toNat]? = some k) (ha : s.allocFail = true) :
    exec (.ccmpSetKey n) s = .next { s with code := .nomem } :=
  (withSlot_some hk).trans (if_pos ha)

theorem exec_ccmpSetKey_installs (hk : s.keys[n.toNat]? = some k) (ha : s.allocFail = false) :
    exec (.ccmpSetKey n) s = .next { s with keys := s.keys.set n.toNat s.ccmpInstall, code := .ok } :=
  (withSlot_some hk).trans (if_neg (by simp [ha]))

/-- Settles O6. -/
theorem ccmpSetKeyInstalls : Obligations.CcmpSetKeyInstalls := by
  intro n s hn
  have hk : s.keys[n.toNat]? = some (s.keys[n.toNat]'hn) := List.getElem?_eq_getElem hn
  refine ⟨encode_eq_append _, exec_ccmpSetKey_noMem hk, fun ha => ?_⟩
  refine ⟨s.ccmpInstall, exec_ccmpSetKey_installs hk ha, ccmpInstall_key s, rfl, rfl, rfl, fun t => ?_, rfl, rfl⟩
  exact Vector.getElem_replicate _

theorem exec_ccmpDeleteKey_tkip (hk : s.keys[n.toNat]? = some k) (hc : k.cipher = .tkip) :
    exec (.ccmpDeleteKey n) s = .next { s with code := .badKey } :=
  (withSlot_some hk).trans (if_pos hc)

theorem exec_ccmpDeleteKey_empties (hk : s.keys[n.toNat]? = some k) (hc : k.cipher ≠ .tkip) :
    exec (.ccmpDeleteKey n) s = .next { s with keys := s.keys.set n.toNat KeySlot.empty, code := .ok } :=
  (withSlot_some hk).trans (if_neg hc)

/-- Writing a slot with what it holds changes nothing. -/
theorem set_slot_self (hk : s.keys[n.toNat]? = some k) : s.keys.set n.toNat k = s.keys := by
  obtain ⟨hlt, rfl⟩ := List.getElem?_eq_some_iff.mp hk
  exact List.set_getElem_self hlt

/-- Settles O8: emptying an empty slot writes what it holds. -/
theorem ccmpDeleteKeyEmptiesTheSlot : Obligations.CcmpDeleteKeyEmptiesTheSlot := by
  intro n s k hk
  refine ⟨encode_eq_append _, exec_ccmpDeleteKey_tkip hk, exec_ccmpDeleteKey_empties hk, ?_⟩
  rintro rfl
  rw [exec_ccmpDeleteKey_empties hk (by decide), set_slot_self hk]

end Sys2Proof.Proofs
end

section
/-! SUPPORT. CCM undoes itself: in both directions the CBC-MAC runs over the plaintext, and the key stream cancels (42
R186, R187). -/

open Sys2Proof Sys2Proof.Machine Sys2Proof.Claims

namespace Sys2Proof.Proofs

/-- A mask laid over a string twice, at least as long as the string, gives the string back. -/
theorem xorOctets_xorOctets {d m : Octets} (h : d.length ≤ m.length) : xorOctets (xorOctets d m) m = d := by
  apply List.ext_getElem
  · simp; omega
  · intro j _ _
    simp [xorOctets]

/-- The first block of a string, cut off again: it is full, or short and the whole string. -/
theorem take_drop_of_block {c c' : Octets} (h : c.length = 16 ∨ (c.length ≤ 16 ∧ c' = [])) :
    (c ++ c').take 16 = c ∧ (c ++ c').drop 16 = c' := by
  rcases h with h | ⟨h, rfl⟩
  · exact ⟨List.take_left' h, List.drop_left' h⟩
  · simpa using h

/-- The two passes meet the same plaintext blocks with the same key stream, so they end in one CBC-MAC (42 R186). -/
theorem ccmPass_decrypt_encrypt (rk : List Block) (N : Octets) {nb i : Nat} {d : Octets} {x : Block}
    (h : d.length ≤ 16 * nb) :
    ccmPass rk N .decrypt nb i (ccmPass rk N .encrypt nb i d x).1 x = (d, (ccmPass rk N .encrypt nb i d x).2) := by
  induction nb generalizing i d x with
  | zero =>
    obtain rfl : d = [] := List.eq_nil_of_length_eq_zero (by omega)
    rfl
  | succ nb ih =>
    have hrest : (d.drop 16).length ≤ 16 * nb := by simp; omega
    have hcancel : xorOctets (xorOctets (d.take 16) (ccmS rk N i)) (ccmS rk N i) = d.take 16 :=
      xorOctets_xorOctets (by simp)
    obtain ⟨htake, hdrop⟩ := take_drop_of_block (c := xorOctets (d.take 16) (ccmS rk N i))
      (c' := (ccmPass rk N .encrypt nb (i + 1) (d.drop 16) (cbcStep rk x (blockOf (d.take 16)))).1) (by
        rw [← List.length_eq_zero_iff, ccmPass_length rk N .encrypt nb (i + 1) _ _ hrest]
        simp
        omega)
    simp only [ccmPass, htake, hdrop, hcancel, ih hrest, List.take_append_drop]

/-- Settles O35: decryption starts its CBC-MAC as encryption does, since the ciphertext is as long as the data. -/
theorem ccmDecryptUndoesCcmEncrypt : Obligations.CcmDecryptUndoesCcmEncrypt := by
  intro rk N auth d
  have hlen : (ccm rk N auth d .encrypt).1.length = d.length := ccm_output_length rk N auth d .encrypt
  have hpass := ccmPass_decrypt_encrypt rk N (i := 1) (d := d) (x := ccmStart rk N auth d.length)
    (nb := (d.length + 15) / 16) (by omega)
  rw [ccm, hlen]
  simp only [ccm, hpass]

end Sys2Proof.Proofs
end

section
/-! SUPPORT. CCMP_DECRYPT: its checks in the words of the statements, what it does with a frame that passes them, and
what a changed MIC does (42 R189 to R191). -/

open Sys2Proof Sys2Proof.Machine Sys2Proof.Claims

namespace Sys2Proof.Proofs

variable {n : BitVec 8} {s t : State} {k : KeySlot} {rk : List Block} {F G : Octets}

/-! ### The checks of a decrypt command, in the words of the statements -/

theorem oct_slice {i j m : Nat} (hm : m < j - i) : oct (slice F i j) m = oct F (i + m) := by
  simp [oct, slice, hm]

theorem oct_cipherHeader {m : Nat} (hm : m < 8) : oct (cipherHeader F) m = oct F (hdrlen F + m) :=
  oct_slice (by omega)

/-- The received PN is that of the eight octets after the header (30 R101). -/
theorem ccmpPn_cipherHeader (F : Octets) : ccmpPn (cipherHeader F) = rxPn F := by
  simp only [ccmpPn, oct_cipherHeader, Nat.reduceLT]
  rfl

theorem extIv_cipherHeader_iff : extIv (cipherHeader F) = true ↔ rxExtIv F := by
  simp only [extIv, oct_cipherHeader, Nat.reduceLT, bne_iff_ne]

/-- The counter CCMP_DECRYPT selects, read (45 R283). -/
theorem counter_ccmpSel (k : KeySlot) (F : Octets) : k.counter (ccmpSel F) = ccmpPrsc k F := by
  unfold ccmpSel ccmpPrsc
  split <;> rfl

/-- The counter CCMP_DECRYPT selects, written (45 R283, R285). -/
theorem commit_ccmpSel (k : KeySlot) (F : Octets) (pn : BitVec 48) :
    k.commit (ccmpSel F) pn = ccmpCommitted k F pn := by
  unfold ccmpSel ccmpCommitted
  split <;> rfl

theorem noMem_eq_false_iff {m : Nat} : s.noMem m = false ↔ ¬ noRoom s m := by
  simp [State.noMem]

/-- The admissible frames are those that pass every check CCMP_DECRYPT makes before any cipher work (42 R190). -/
theorem admissible_ccmp_iff : admissible s F 16 (rxPn F) (ccmpPrsc k F) ↔
    headerOk F = true ∧ hdrlen F + 16 ≤ F.length ∧ extIv (cipherHeader F) = true ∧
      k.counter (ccmpSel F) < ccmpPn (cipherHeader F) ∧ s.noMem (F.length - 16) = false := by
  rw [admissible, extIv_cipherHeader_iff, counter_ccmpSel, ccmpPn_cipherHeader, noMem_eq_false_iff]

/-! ### CCMP_DECRYPT -/

/-- What CCMP_DECRYPT puts out for a frame it accepts (42 R189, R190). -/
def ccmpRecovered (rk : List Block) (F : Octets) : Octets :=
  (F.take (hdrlen F)).set 1 (oct F 1 &&& 0xBF) ++ (ccmpOpen rk (rxPn F) F).1

/-- The PROTECTED bit is cleared in the header's own octet 1 (42 R189). -/
theorem clearProtected_take (F : Octets) :
    clearProtected (F.take (hdrlen F)) = (F.take (hdrlen F)).set 1 (oct F 1 &&& 0xBF) := by
  have hoct : oct (F.take (hdrlen F)) 1 = oct F 1 := by
    have := hdrlen_ge F
    simp [oct, show 1 < hdrlen F by omega]
  rw [clearProtected, hoct]

/-- CCMP_DECRYPT on a slot with round keys and a frame that is all written (42 R190). -/
theorem exec_ccmpDecrypt (hk : s.keys[n.toNat]? = some k) (hc : k.ctx = .ccmp rk) (hF : s.frame = some F) :
    exec (.ccmpDecrypt n) s = ccmpDecryptFrame n s k rk F := by
  simp only [exec, execCcmpDecrypt, withSlot_some hk, hc, withFrame_some hF]

/-- CCMP_DECRYPT of an admissible frame: the comparison of the two MICs decides (42 R190). -/
theorem ccmpDecryptFrame_admissible (h : admissible s F 16 (rxPn F) (ccmpPrsc k F)) :
    ccmpDecryptFrame n s k rk F =
      if (ccmpOpen rk (rxPn F) F).2 = slice F (F.length - 8) F.length then
        .next (frameSuccess s (s.keys.set n.toNat (ccmpCommitted k F (rxPn F))) (ccmpRecovered rk F))
      else .next (frameFailure s .authFailCcmp) := by
  obtain ⟨hok, hlen, hiv, hpn, hroom⟩ := admissible_ccmp_iff.mp h
  have hlong : ¬ F.length < hdrlen F + 8 + 8 := by omega
  rw [ccmpPn_cipherHeader] at hpn
  have hnew : ¬ rxPn F ≤ k.counter (ccmpSel F) := BitVec.not_le.mpr hpn
  simp only [ccmpDecryptFrame, hok, hlong, hiv, ccmpPn_cipherHeader, hnew, hroom, Bool.not_true, Bool.false_eq_true,
    if_false, ne_eq, ite_not, clearProtected_take, commit_ccmpSel]
  rfl

/-- A CCMP_DECRYPT that ends OK had an admissible frame whose MIC matches (42 R190). -/
theorem exec_ccmpDecrypt_ok (h : exec (.ccmpDecrypt n) s = .next t) (hok : t.code = .ok) :
    ∃ k rk F, s.keys[n.toNat]? = some k ∧ k.ctx = .ccmp rk ∧ s.frame = some F ∧
      admissible s F 16 (rxPn F) (ccmpPrsc k F) ∧
      (ccmpOpen rk (rxPn F) F).2 = slice F (F.length - 8) F.length ∧
      t = frameSuccess s (s.keys.set n.toNat (ccmpCommitted k F (rxPn F))) (ccmpRecovered rk F) := by
  rcases execCcmpDecrypt_next h with ⟨-, rfl⟩ | ⟨_, -, -, rfl⟩ | ⟨k, rk, F, hk, hc, hF, h⟩
  · cases hok
  · cases hok
  rcases ccmpDecryptFrame_next h with ⟨c, hmem, rfl⟩ | ⟨hhdr, hlen, hiv, hpn, hroom, hmic, rfl⟩
  · obtain rfl : c = .ok := hok
    simp at hmem
  · refine ⟨k, rk, F, hk, hc, hF, admissible_ccmp_iff.mpr ⟨hhdr, hlen, hiv, hpn, hroom⟩, ?_, ?_⟩
    · rw [← ccmpPn_cipherHeader, hmic]
    · rw [deliver_setSlot, clearProtected_take, commit_ccmpSel, ccmpPn_cipherHeader]
      rfl

/-- Settles O11. -/
theorem ccmpDecryptRecoversTheFrame : Obligations.CcmpDecryptRecoversTheFrame := by
  intro n s k rk F P T hk hc hF hadm hccm
  obtain ⟨rfl, rfl⟩ : P = (ccmpOpen rk (rxPn F) F).1 ∧ T = (ccmpOpen rk (rxPn F) F).2 := Prod.ext_iff.mp hccm
  rw [exec_ccmpDecrypt hk hc hF, ccmpDecryptFrame_admissible hadm]
  exact ⟨fun hmic => if_pos hmic, fun hmic => if_neg hmic⟩

/-! ### A changed MIC -/

theorem slice_eq_of_take {i j m : Nat} (h : G.take m = F.take m) (hj : j ≤ m) : slice G i j = slice F i j := by
  have hcut : ∀ X : Octets, slice X i j = ((X.take m).take j).drop i := fun X => by
    rw [slice, List.take_take, Nat.min_eq_left hj, List.drop_take]
  rw [hcut, hcut, h]

/-- `G` is `F` but for its last eight octets, the MIC field (30 R102). -/
structure SameButMic (F G : Octets) : Prop where
  length : G.length = F.length
  front : G.take (F.length - 8) = F.take (F.length - 8)

section
variable (h : SameButMic F G) (hlen : hdrlen F + 16 ≤ F.length)
include h hlen

theorem SameButMic.sameHeader : SameHeader F G := by
  have htake : ∀ X : Octets, X.take (hdrlen F) = (X.take (F.length - 8)).take (hdrlen F) := fun X => by
    rw [List.take_take, Nat.min_eq_left (by omega)]
  exact sameHeader_of_take (by rw [htake G, htake F, h.front])

theorem SameButMic.cipherHeader : cipherHeader G = cipherHeader F := by
  rw [Sys2Proof.cipherHeader, (h.sameHeader hlen).hdrlen]
  exact slice_eq_of_take h.front (by omega)

theorem SameButMic.rxPn : rxPn G = rxPn F := by
  rw [← ccmpPn_cipherHeader, ← ccmpPn_cipherHeader, h.cipherHeader hlen]

/-- The computed MIC is a function of the other octets only (42 R191). -/
theorem SameButMic.ccmpOpen (pn : BitVec 48) : ccmpOpen rk pn G = ccmpOpen rk pn F := by
  have hhead := h.sameHeader hlen
  rw [Machine.ccmpOpen, hhead.ccmNonce, hhead.ccmAuth, hhead.hdrlen, h.length,
    slice_eq_of_take h.front (Nat.le_refl _), ← Machine.ccmpOpen]

/-- No check before the cipher work reads the MIC (42 R190). -/
theorem SameButMic.admissible (hF : admissible s F 16 (Claims.rxPn F) (ccmpPrsc k F)) :
    admissible s G 16 (Claims.rxPn G) (ccmpPrsc k G) := by
  have hhead := h.sameHeader hlen
  rw [admissible_ccmp_iff] at hF ⊢
  obtain ⟨hok, -, hiv, hpn, hroom⟩ := hF
  rw [hhead.hdrlen, hhead.ccmpSel, h.cipherHeader hlen, h.length]
  exact ⟨hhead.headerOk hok h.length.ge, hlen, hiv, hpn, hroom⟩

end

/-- A frame whose MIC field alone differs from that of a matching one fails (42 R190, R191). -/
theorem exec_ccmpDecrypt_changedMic (hk : s.keys[n.toNat]? = some k) (hc : k.ctx = .ccmp rk) (hG : s.frame = some G)
    (hadm : admissible s F 16 (rxPn F) (ccmpPrsc k F)) (hsame : SameButMic F G)
    (hmatch : (ccmpOpen rk (rxPn F) F).2 = slice F (F.length - 8) F.length)
    (hne : slice G (F.length - 8) F.length ≠ slice F (F.length - 8) F.length) :
    exec (.ccmpDecrypt n) s = .next (frameFailure s .authFailCcmp) := by
  obtain ⟨-, hlen, -⟩ := admissible_ccmp_iff.mp hadm
  rw [exec_ccmpDecrypt hk hc hG, ccmpDecryptFrame_admissible (hsame.admissible hlen hadm), hsame.rxPn hlen,
    hsame.ccmpOpen hlen, hsame.length, hmatch, if_neg hne.symm]

/-- Reading a string back after its end has been written anew (20 R60). -/
theorem memReadAll_write_tail {m : Mem} {a : Nat} {bs : Octets} (hF : memReadAll m 0 F.length = some F)
    (ha : a + bs.length = F.length) : memReadAll (memWriteAll m a bs) 0 F.length = some (F.take a ++ bs) := by
  obtain ⟨-, hread⟩ := memReadAll_eq_some.mp hF
  have htake : (F.take a).length = a := List.length_take_of_le (by omega)
  refine memReadAll_eq_some.mpr ⟨by rw [List.length_append, htake, ha], fun i hi => ?_⟩
  rw [memRead_memWriteAll, Nat.zero_add]
  split
  · next hin => rw [List.getElem?_append_right (by omega), htake]
  · next hout =>
    rw [List.getElem?_append_left (by omega), List.getElem?_take_of_lt (by omega), ← hread i hi, Nat.zero_add]

/-- The frame after the host has written its end anew. -/
theorem frame_write_tail {a : Nat} {bs : Octets} (hF : s.frame = some F) (ha : a + bs.length = F.length) :
    ({ s with inbuf := memWriteAll s.inbuf a bs } : State).frame = some (F.take a ++ bs) := by
  have hread : ∀ m : Mem, memReadAll m 0 s.inlen.toNat = memReadAll m 0 F.length := fun m => by rw [frame_length hF]
  exact (hread _).trans (memReadAll_write_tail ((hread _).symm.trans hF) ha)

/-- Settles O39: the computed MIC stays that of the accepted frame, which the new octets are not. -/
theorem changedMicsFailTheAuthentication : Obligations.ChangedMicsFailTheAuthentication := by
  intro n s t F mic hF h hok hmic hne
  obtain ⟨k, rk, _, hk, hc, hF', hadm, hmatch, -⟩ := exec_ccmpDecrypt_ok h hok
  obtain rfl := Option.some.inj (hF.symm.trans hF')
  obtain ⟨-, hlen, -⟩ := admissible_ccmp_iff.mp hadm
  have htake : (F.take (F.length - 8)).length = F.length - 8 := List.length_take_of_le (by omega)
  have hsame : SameButMic F (F.take (F.length - 8) ++ mic) :=
    ⟨by rw [List.length_append]; omega, List.take_left' htake⟩
  have htail : slice (F.take (F.length - 8) ++ mic) (F.length - 8) F.length = mic :=
    slice_middle (List.append_nil _).symm htake.symm (by omega)
  exact exec_ccmpDecrypt_changedMic hk hc (frame_write_tail hF (by omega)) hadm hsame hmatch (by rwa [htail])

end Sys2Proof.Proofs
end

section
/-! SUPPORT. The CCMP round trip: the parts of a protected frame, found again by CCMP_DECRYPT (30 R100 to R102; 42 R188
to R191). -/

open Sys2Proof Sys2Proof.Machine Sys2Proof.Claims

namespace Sys2Proof.Proofs

variable {s t : State} {n : BitVec 8} {k : KeySlot} {rk : List Block} {id : BitVec 2} {pn : BitVec 48} {F : Octets}

/-! ### The CCMP header -/

/-- A CCMP header gives back the PN it was built from (30 R100, R101). -/
theorem ccmpPn_ccmpHeader (pn : BitVec 48) (id : BitVec 2) : ccmpPn (ccmpHeader pn id) = pn := mkPn_pnOctets pn

/-- A CCMP header has ExtIV set, whatever the key index (30 R100). -/
theorem extIv_ccmpHeader (pn : BitVec 48) (id : BitVec 2) : extIv (ccmpHeader pn id) = true := by
  have hbit : ∀ id : BitVec 2, keyIdOctet id &&& 0x20 ≠ 0 := by decide
  exact bne_iff_ne.mpr (hbit id)

/-! ### The parts of a protected frame -/

/-- The protected frame carries the header it was built from (42 R188). -/
theorem ccmpProtect_sameHeader (hok : headerOk F = true) : SameHeader F (ccmpProtect rk id pn F) := by
  have hhead : (F.take (hdrlen F)).length = hdrlen F := List.length_take_of_le (headerOk_hdrlen hok)
  refine sameHeader_of_take ?_
  rw [ccmpProtect, List.append_assoc, List.append_assoc]
  exact List.take_left' hhead

theorem cipherHeader_ccmpProtect (hok : headerOk F = true) :
    cipherHeader (ccmpProtect rk id pn F) = ccmpHeader pn id := by
  have hhead : (F.take (hdrlen F)).length = hdrlen F := List.length_take_of_le (headerOk_hdrlen hok)
  rw [cipherHeader, (ccmpProtect_sameHeader hok).hdrlen]
  exact slice_middle (List.append_assoc _ _ _) hhead.symm (by rw [hhead, ccmpHeader_length])

/-- Between the CCMP header and the last eight octets stands the ciphertext (30 R102). -/
theorem ccmpProtect_ciphertext (hok : headerOk F = true) :
    slice (ccmpProtect rk id pn F) (hdrlen F + 8) ((ccmpProtect rk id pn F).length - 8) =
      (ccm rk (ccmNonce F pn) (ccmAuth F) (F.drop (hdrlen F)) .encrypt).1 := by
  have hfit := headerOk_hdrlen hok
  refine slice_middle rfl ?_ ?_
  · simp [hfit]
  · simp [ccmpProtect_length hok]
    omega

/-- The last eight octets are the MIC (30 R102). -/
theorem ccmpProtect_mic (hok : headerOk F = true) :
    slice (ccmpProtect rk id pn F) ((ccmpProtect rk id pn F).length - 8) (ccmpProtect rk id pn F).length =
      (ccm rk (ccmNonce F pn) (ccmAuth F) (F.drop (hdrlen F)) .encrypt).2 := by
  have hfit := headerOk_hdrlen hok
  refine slice_middle (List.append_nil _).symm ?_ ?_
  · simp [ccmpProtect_length hok]
    omega
  · simp [ccmpProtect_length hok]
    omega

theorem rxPn_ccmpProtect (hok : headerOk F = true) : rxPn (ccmpProtect rk id pn F) = pn := by
  rw [← ccmpPn_cipherHeader, cipherHeader_ccmpProtect hok, ccmpPn_ccmpHeader]

/-! ### The round trip -/

/-- Decryption meets the nonce and the AAD area of encryption, since both read the header alone (42 R191). -/
theorem ccmpOpen_ccmpProtect (hok : headerOk F = true) :
    ccmpOpen rk pn (ccmpProtect rk id pn F) =
      (F.drop (hdrlen F), (ccm rk (ccmNonce F pn) (ccmAuth F) (F.drop (hdrlen F)) .encrypt).2) := by
  have hhead := ccmpProtect_sameHeader (rk := rk) (id := id) (pn := pn) hok
  rw [ccmpOpen, hhead.ccmNonce, hhead.ccmAuth, hhead.hdrlen, ccmpProtect_ciphertext hok, ccmDecryptUndoesCcmEncrypt]

/-- Header and body of the protected frame, put together again, are the frame with PROTECTED cleared (42 R189, R191). -/
theorem ccmpRecovered_ccmpProtect (hok : headerOk F = true) :
    ccmpRecovered rk (ccmpProtect rk id pn F) = F.set 1 (oct F 1 &&& 0xBF) := by
  have hhead := ccmpProtect_sameHeader (rk := rk) (id := id) (pn := pn) hok
  have hge := hdrlen_ge F
  have hfit := headerOk_hdrlen hok
  have htake : (ccmpProtect rk id pn F).take (hdrlen F) = F.take (hdrlen F) := by
    simpa [slice] using hhead.part 0 (hdrlen F) (Nat.le_refl _)
  rw [ccmpRecovered, rxPn_ccmpProtect hok, ccmpOpen_ccmpProtect hok, hhead.hdrlen, htake, hhead.low (by decide),
    ← List.set_append_left _ _ (by simp; omega), List.take_append_drop]

/-- A protected frame is admissible where its PN is new and the plain frame has room (42 R190). -/
theorem ccmpProtect_admissible (hok : headerOk F = true) (hpn : ccmpPrsc k F < pn) (hroom : ¬ noRoom s F.length) :
    admissible s (ccmpProtect rk id pn F) 16 (rxPn (ccmpProtect rk id pn F)) (ccmpPrsc k (ccmpProtect rk id pn F)) := by
  have hhead := ccmpProtect_sameHeader (rk := rk) (id := id) (pn := pn) hok
  have hlen := ccmpProtect_length (rk := rk) (id := id) (pn := pn) hok
  have hfit := headerOk_hdrlen hok
  refine admissible_ccmp_iff.mpr ⟨hhead.headerOk hok (by omega), by rw [hhead.hdrlen]; omega, ?_, ?_, ?_⟩
  · rw [cipherHeader_ccmpProtect hok, extIv_ccmpHeader]
  · rw [hhead.ccmpSel, cipherHeader_ccmpProtect hok, ccmpPn_ccmpHeader, counter_ccmpSel]
    exact hpn
  · rw [hlen, Nat.add_sub_cancel]
    exact noMem_eq_false hroom

/-- CCMP_DECRYPT of a protected frame gives the frame back and commits the PN it was built with (42 R191). -/
theorem exec_ccmpDecrypt_ccmpProtect (hk : s.keys[n.toNat]? = some k) (hc : k.ctx = .ccmp rk)
    (hG : s.frame = some (ccmpProtect rk id pn F)) (hok : headerOk F = true) (hpn : ccmpPrsc k F < pn)
    (hroom : ¬ noRoom s F.length) :
    exec (.ccmpDecrypt n) s = .next
      (frameSuccess s (s.keys.set n.toNat (ccmpCommitted k F pn)) (F.set 1 (oct F 1 &&& 0xBF))) := by
  have hsel := (ccmpProtect_sameHeader (rk := rk) (id := id) (pn := pn) hok).ccmpSel
  rw [exec_ccmpDecrypt hk hc hG, ccmpDecryptFrame_admissible (ccmpProtect_admissible hok hpn hroom),
    rxPn_ccmpProtect hok, ccmpOpen_ccmpProtect hok, ccmpProtect_mic hok, if_pos rfl, ccmpRecovered_ccmpProtect hok,
    ← commit_ccmpSel, hsel, commit_ccmpSel]

/-- A CCMP_ENCRYPT that ends OK admitted the frame and delivered its protected form (42 R188). -/
theorem exec_ccmpEncrypt_ok (hk : s.keys[n.toNat]? = some k) (hc : k.ctx = .ccmp rk) (hF : s.frame = some F)
    (h : exec (.ccmpEncrypt n) s = .next t) (hok : t.code = .ok) :
    headerOk F = true ∧ t.outbuf = memOf 0 (ccmpProtect rk k.id (k.tsc + 1) F) := by
  rw [exec_ccmpEncrypt hk hc hF] at h
  rcases ccmpEncryptFrame_next h with ⟨-, rfl⟩ | ⟨-, -, rfl⟩ | ⟨-, -, -, rfl⟩ | ⟨hhdr, -, -, rfl⟩
  · cases hok
  · cases hok
  · cases hok
  · exact ⟨hhdr, rfl⟩

/-- Settles O33: what the host reads from the output buffer is the protected frame. -/
theorem ccmpDecryptUndoesCcmpEncrypt : Obligations.CcmpDecryptUndoesCcmpEncrypt := by
  intro a b s s' t ka kb rk F G hka hca hF henc hok hG hlen hkb hcb hG' halloc hcap hpn
  obtain ⟨hhdr, hout⟩ := exec_ccmpEncrypt_ok hka hca hF henc hok
  obtain rfl : G = ccmpProtect rk ka.id (ka.tsc + 1) F := by
    rw [hout, hlen, ← ccmpProtect_length hhdr, memReadAll_memOf] at hG
    exact (Option.some.inj hG).symm
  have hroom : ¬ noRoom t F.length := by simp [halloc, hcap]
  exact exec_ccmpDecrypt_ccmpProtect hkb hcb hG' hhdr hpn hroom

end Sys2Proof.Proofs
end

section
/-! SUPPORT. Replay: the counter a decrypt command commits is the one it checks, so the frame it accepted is not new the
second time (42 R191; 44 R251; 45 R283 to R285). -/

open Sys2Proof Sys2Proof.Machine Sys2Proof.Claims

namespace Sys2Proof.Proofs

variable {s t u : State} {n : BitVec 8} {k : KeySlot} {rk : List Block} {c : TkipCtx} {F : Octets}

/-- A committed counter reads as what was committed (45 R285). -/
@[simp] theorem counter_commit (k : KeySlot) (sel : CounterSel) (pn : BitVec 48) :
    (k.commit sel pn).counter sel = pn := by
  cases sel <;> simp [KeySlot.commit, KeySlot.counter, KeySlot.rscAt]

/-- A counter value once committed is not new (45 R284, R285). -/
theorem le_counter_commit (k : KeySlot) (sel : CounterSel) (pn : BitVec 48) : pn ≤ (k.commit sel pn).counter sel := by
  rw [counter_commit]
  exact BitVec.le_refl pn

/-- A commit leaves the context alone (45 R285). -/
@[simp] theorem commit_ctx (k : KeySlot) (sel : CounterSel) (pn : BitVec 48) : (k.commit sel pn).ctx = k.ctx := by
  cases sel <;> rfl

/-! ### A counter value that is not new -/

/-- CCMP_DECRYPT of a frame whose PN is not above the selected counter (42 R190). -/
theorem ccmpDecryptFrame_replay (hok : headerOk F = true) (hlen : hdrlen F + 16 ≤ F.length)
    (hiv : extIv (cipherHeader F) = true) (hpn : ccmpPn (cipherHeader F) ≤ k.counter (ccmpSel F)) :
    ccmpDecryptFrame n s k rk F = .next (frameFailure s .replay) := by
  have hlong : ¬ F.length < hdrlen F + 8 + 8 := by omega
  simp only [ccmpDecryptFrame, hok, hlong, hiv, hpn, Bool.not_true, Bool.false_eq_true, if_false, if_true]
  rfl

/-- TKIP_DECRYPT of a frame whose TSC is not above the selected counter (44 R247). -/
theorem tkipDecryptFrame_replay (hok : headerOk F = true) (hlen : hdrlen F + 20 ≤ F.length)
    (hiv : extIv (cipherHeader F) = true) (htsc : tkipTsc (cipherHeader F) ≤ k.counter (tkipSel F)) :
    tkipDecryptFrame n s k c F = .next (frameFailure s .replay) := by
  have hlong : ¬ F.length < hdrlen F + 8 + 8 + 4 := by omega
  simp only [tkipDecryptFrame, hok, hlong, hiv, htsc, Bool.not_true, Bool.false_eq_true, if_false, if_true]
  rfl

/-! ### The same frame twice -/

/-- TKIP_DECRYPT on a slot with a TKIP context and a frame that is all written (44 R247). -/
theorem exec_tkipDecrypt (hk : s.keys[n.toNat]? = some k) (hc : k.ctx = .tkip c) (hF : s.frame = some F) :
    exec (.tkipDecrypt n) s = tkipDecryptFrame n s k c F := by
  simp only [exec, execTkipDecrypt, withSlot_some hk, hc, withFrame_some hF]

/-- A TKIP_DECRYPT that ends OK passed the checks before the key mix and committed the received TSC (44 R247). -/
theorem exec_tkipDecrypt_ok (h : exec (.tkipDecrypt n) s = .next t) (hok : t.code = .ok) :
    ∃ k c' F, s.keys[n.toNat]? = some k ∧ s.frame = some F ∧ headerOk F = true ∧ hdrlen F + 20 ≤ F.length ∧
      extIv (cipherHeader F) = true ∧
      t.keys = s.keys.set n.toNat
        (({ k with ctx := .tkip c' } : KeySlot).commit (tkipSel F) (tkipTsc (cipherHeader F))) := by
  rcases execTkipDecrypt_next h with ⟨-, rfl⟩ | ⟨_, -, -, rfl⟩ | ⟨k, c, F, hk, -, hF, h⟩
  · cases hok
  · cases hok
  rcases tkipDecryptFrame_next h with ⟨c', hmem, rfl⟩ | ⟨hhdr, hlen, hiv, -, -, h⟩
  · obtain rfl : c' = .ok := hok
    simp at hmem
  obtain ⟨e, -, ⟨-, rfl⟩ | ⟨-, -, rfl⟩ | ⟨-, -, rfl⟩⟩ := tkipVerify_next h
  · cases hok
  · cases hok
  · exact ⟨k, _, F, hk, hF, hhdr, hlen, hiv, rfl⟩

/-- `u` is the state `t` a command left, with the input `s` had fed again; the code, the output frame and the two inputs
of the block may be anything. -/
structure FedAgain (s t u : State) : Prop where
  keys : u.keys = t.keys
  inbuf : u.inbuf = s.inbuf
  inlen : u.inlen = s.inlen

theorem FedAgain.frame (h : FedAgain s t u) : u.frame = s.frame := by rw [State.frame, h.inbuf, h.inlen]; rfl

theorem FedAgain.slot (h : FedAgain s t u) {k' : KeySlot} (hk : s.keys[n.toNat]? = some k)
    (ht : t.keys = s.keys.set n.toNat k') : u.keys[n.toNat]? = some k' := by
  rw [h.keys, ht, setSlot_get_same hk]

theorem ccmpDecrypt_replay (h : exec (.ccmpDecrypt n) s = .next t) (hok : t.code = .ok) (hu : FedAgain s t u) :
    exec (.ccmpDecrypt n) u = .next (frameFailure u .replay) := by
  obtain ⟨k, rk, F, hk, hc, hF, hadm, -, rfl⟩ := exec_ccmpDecrypt_ok h hok
  obtain ⟨hhdr, hlen, hiv, -, -⟩ := admissible_ccmp_iff.mp hadm
  rw [← commit_ccmpSel, ← ccmpPn_cipherHeader] at hu
  rw [exec_ccmpDecrypt (hu.slot hk rfl) ((commit_ctx _ _ _).trans hc) (hu.frame.trans hF)]
  exact ccmpDecryptFrame_replay hhdr hlen hiv (le_counter_commit _ _ _)

theorem tkipDecrypt_replay (h : exec (.tkipDecrypt n) s = .next t) (hok : t.code = .ok) (hu : FedAgain s t u) :
    exec (.tkipDecrypt n) u = .next (frameFailure u .replay) := by
  obtain ⟨k, c', F, hk, hF, hhdr, hlen, hiv, ht⟩ := exec_tkipDecrypt_ok h hok
  rw [exec_tkipDecrypt (hu.slot hk ht) (commit_ctx _ _ _) (hu.frame.trans hF)]
  exact tkipDecryptFrame_replay hhdr hlen hiv (le_counter_commit _ _ _)

/-- Settles O37: no command writes `INBUF`, so with `INLEN` written again the input is the same. -/
theorem acceptedFrameIsAReplayTheSecondTime : Obligations.AcceptedFrameIsAReplayTheSecondTime := by
  intro n i s t b now hi h hok
  have hu : FedAgain s t { t with inlen := s.inlen, allocFail := b, ticks := now } :=
    ⟨rfl, (exec_ends h).hostSideKept.inbuf, rfl⟩
  simp only [List.mem_cons, List.not_mem_nil, or_false] at hi
  rcases hi with rfl | rfl
  · exact ccmpDecrypt_replay h hok hu
  · exact tkipDecrypt_replay h hok hu

end Sys2Proof.Proofs
end

section
/-! SUPPORT. The receive TTAK cache: which test TKIP_DECRYPT applies to it, and how the command leaves it (43 R230; 44
R247; 70 R371). -/

open Sys2Proof Sys2Proof.Machine Sys2Proof.Claims

namespace Sys2Proof.Proofs

variable {s t : State} {n : BitVec 8} {k : KeySlot} {c : TkipCtx} {F : Octets} {tsc prsc : BitVec 48}

/-! ### The checks of TKIP_DECRYPT, in the words of the statements -/

/-- The received TSC is that of the eight octets after the header (30 R111). -/
theorem tkipTsc_cipherHeader (F : Octets) : tkipTsc (cipherHeader F) = rxTsc F := by
  simp only [tkipTsc, oct_cipherHeader, Nat.reduceLT]
  rfl

/-- The counter TKIP_DECRYPT selects, read (45 R283). -/
theorem counter_tkipSel (k : KeySlot) (F : Octets) : k.counter (tkipSel F) = tkipPrsc k F := rfl

/-- The admissible frames are those that pass every check TKIP_DECRYPT makes before the key mix (44 R247). -/
theorem admissible_tkip_iff : admissible s F 20 (rxTsc F) (tkipPrsc k F) ↔
    headerOk F = true ∧ hdrlen F + 20 ≤ F.length ∧ extIv (cipherHeader F) = true ∧
      k.counter (tkipSel F) < tkipTsc (cipherHeader F) ∧ s.noMem (F.length - 20) = false := by
  rw [admissible, extIv_cipherHeader_iff, counter_tkipSel, tkipTsc_cipherHeader, noMem_eq_false_iff]

/-- TKIP_DECRYPT of an admissible frame mixes the key and verifies (44 R247). -/
theorem tkipDecryptFrame_admissible (h : admissible s F 20 (rxTsc F) (tkipPrsc k F)) :
    tkipDecryptFrame n s k c F =
      tkipVerify n s k (rxMix k.tk c F (rxTsc F) (tkipPrsc k F)) F (rxTsc F) := by
  obtain ⟨hok, hlen, hiv, htsc, hroom⟩ := admissible_tkip_iff.mp h
  have hlong : ¬ F.length < hdrlen F + 8 + 8 + 4 := by omega
  rw [tkipTsc_cipherHeader, counter_tkipSel] at htsc
  have hnew : ¬ rxTsc F ≤ tkipPrsc k F := BitVec.not_le.mpr htsc
  simp only [tkipDecryptFrame, hok, hlong, hiv, tkipTsc_cipherHeader, counter_tkipSel, hnew, hroom, Bool.not_true,
    Bool.false_eq_true, if_false]

/-! ### The receive key mix -/

/-- The test of the receive key mix is the statements' test (43 R230). -/
theorem rxStale_iff : rxStale c tsc prsc ↔ (!c.rxttakOk || iv32 tsc != iv32 prsc) = true := by
  simp only [rxStale, Bool.or_eq_true, Bool.not_eq_true', bne_iff_ne, iv32]

/-- The receive key mix meets its description (43 R230). -/
theorem rxMix_rxMixed (k : KeySlot) (c : TkipCtx) (F : Octets) (tsc prsc : BitVec 48) :
    rxMixed k c (rxMix k.tk c F tsc prsc) F tsc prsc :=
  ⟨fun h => if_pos (rxStale_iff.mp h), fun h => if_neg (mt rxStale_iff.mpr h)⟩

/-! ### The cache after the command -/

/-- After the key mix nothing writes the cached words, and only success writes their flag (44 R247; 60 R322). -/
theorem tkipVerify_rxCache (hk : s.keys[n.toNat]? = some k) (h : tkipVerify n s k c F tsc = .next t) :
    ∃ (k' : KeySlot) (c' : TkipCtx), t.keys[n.toNat]? = some k' ∧ k'.ctx = .tkip c' ∧ c'.rxttak = c.rxttak ∧
      (c'.rxttakOk = true ↔ t.code = .ok ∨ c.rxttakOk = true) := by
  obtain ⟨e, -, ⟨-, rfl⟩ | ⟨-, -, rfl⟩ | ⟨-, -, rfl⟩⟩ := tkipVerify_next h
  · exact ⟨_, _, setSlot_get_same hk _, rfl, rfl, by simp⟩
  · refine ⟨{ k with ctx := .tkip { c with rc4 := e.2 } }, _, ?_, rfl, rfl, by simp⟩
    rw [State.raise_frame_keys, handler_keys]
    exact setSlot_get_same hk _
  · exact ⟨_, _, setSlot_get_same hk _, commit_ctx _ _ _, rfl, by simp⟩

/-- Settles O32: the key mix decides the words and the flag by its test, and only success then sets the flag. -/
theorem receiveCacheFollowsItsTest : Obligations.ReceiveCacheFollowsItsTest := by
  intro n s t k c F hk hc hF hadm h
  rw [exec_tkipDecrypt hk hc hF, tkipDecryptFrame_admissible hadm] at h
  obtain ⟨k', c', hk', hc', hwords, hflag⟩ := tkipVerify_rxCache hk h
  obtain ⟨hstale, hfresh⟩ := rxMix_rxMixed k c F (rxTsc F) (tkipPrsc k F)
  refine ⟨k', c', hk', hc', fun hkeep => ?_, fun hmix => ?_⟩
  · have hvalid : c.rxttakOk = true := by simpa using (not_or.mp hkeep).1
    rw [hfresh hkeep] at hwords hflag
    exact ⟨hwords, hflag.mpr (.inr hvalid)⟩
  · rw [hstale hmix] at hwords hflag
    exact ⟨hwords, by simpa using hflag⟩

end Sys2Proof.Proofs
end

section
/-! SUPPORT. The TKIP key commands: what TKIP_SET_KEY and TKIP_DELETE_KEY do on an existing slot (44 R241, R242). -/

open Sys2Proof Sys2Proof.Machine Sys2Proof.Claims

namespace Sys2Proof.Proofs

variable {n : BitVec 8} {s : State} {k : KeySlot}

/-- TKIP_SET_KEY stores the 32 octets of `KEYIN` whole (44 R241). -/
theorem tkipInstall_key (s : State) : s.tkipInstall.key.toList = s.keyin := keyField_toList (keyin_length s)

/-- The two Michael keys of a TKIP install are the last two quarters of `KEYIN` (44 R241; 10 R49). -/
theorem tkipInstall_michaelKey (s : State) :
    s.tkipInstall.michaelKey .at16 = slice s.keyin 16 24 ∧ s.tkipInstall.michaelKey .at24 = slice s.keyin 24 32 := by
  simp only [KeySlot.michaelKey, tkipInstall_key, and_self]

theorem exec_tkipSetKey_noMem (hk : s.keys[n.toNat]? = some k) (ha : s.allocFail = true) :
    exec (.tkipSetKey n) s = .next { s with code := .nomem } :=
  (withSlot_some hk).trans (if_pos ha)

theorem exec_tkipSetKey_installs (hk : s.keys[n.toNat]? = some k) (ha : s.allocFail = false) :
    exec (.tkipSetKey n) s =
      .next { s with keys := s.keys.set n.toNat s.tkipInstall, code := .ok, freeCount := s.freeCount + 1 } :=
  (withSlot_some hk).trans (if_neg (by simp [ha]))

/-- Settles O7: in access-point mode the transmit offset is 16, in station mode 24, and the receive offset is the
other one. -/
theorem tkipSetKeyInstalls : Obligations.TkipSetKeyInstalls := by
  intro n s hn
  have hk : s.keys[n.toNat]? = some (s.keys[n.toNat]'hn) := List.getElem?_eq_getElem hn
  obtain ⟨hlow, hhigh⟩ := tkipInstall_michaelKey s
  refine ⟨exec_tkipSetKey_noMem hk, fun ha => ⟨s.tkipInstall, _, exec_tkipSetKey_installs hk ha, tkipInstall_key s,
    rfl, rfl, rfl, fun t => Vector.getElem_replicate _, rfl, rfl, fun hap => ?ap, fun hsta => ?sta,
    rfl, rfl, rfl, rfl⟩⟩
  case ap =>
    rw [hap]
    exact ⟨rfl, rfl, hlow, hhigh⟩
  case sta =>
    rw [hsta]
    exact ⟨rfl, rfl, hhigh, hlow⟩

theorem exec_tkipDeleteKey_ccmp (hk : s.keys[n.toNat]? = some k) (hc : k.cipher = .ccmp) :
    exec (.tkipDeleteKey n) s = .next { s with code := .badKey } :=
  (withSlot_some hk).trans (if_pos hc)

theorem exec_tkipDeleteKey_empties (hk : s.keys[n.toNat]? = some k) (hc : k.cipher ≠ .ccmp) :
    exec (.tkipDeleteKey n) s = .next { s with keys := s.keys.set n.toNat KeySlot.empty, code := .ok } :=
  (withSlot_some hk).trans (if_neg hc)

/-- Settles O9: emptying an empty slot writes what it holds. -/
theorem tkipDeleteKeyEmptiesTheSlot : Obligations.TkipDeleteKeyEmptiesTheSlot := by
  intro n s k hk
  refine ⟨encode_eq_append _, exec_tkipDeleteKey_ccmp hk, exec_tkipDeleteKey_empties hk, ?_⟩
  rintro rfl
  rw [exec_tkipDeleteKey_empties hk (by decide), set_slot_self hk]

end Sys2Proof.Proofs
end

section
/-! SUPPORT. TKIP_MIC: Michael words as octets, and the command's two ends (41 R164; 44 R250). -/

open Sys2Proof Sys2Proof.Machine Sys2Proof.Claims

namespace Sys2Proof.Proofs

variable {s : State} {F : Octets}

/-! ### Octets and little-endian words -/

/-- A word read from a string is the string's four octets again (00 R10). -/
theorem le32Bytes_le32 (v : Octets) (i : Nat) :
    le32Bytes (le32 v i) = [oct v i, oct v (i + 1), oct v (i + 2), oct v (i + 3)] := by
  simp only [le32Bytes, le32, List.cons.injEq, and_true]
  refine ⟨?_, ?_, ?_, ?_⟩
  · exact (BitVec.extractLsb'_append_eq_of_add_le (by decide)).trans BitVec.extractLsb'_eq_self
  · exact (BitVec.extractLsb'_append_eq_of_le (by decide)).trans
      ((BitVec.extractLsb'_append_eq_of_add_le (by decide)).trans BitVec.extractLsb'_eq_self)
  · exact (BitVec.extractLsb'_append_eq_of_le (by decide)).trans
      ((BitVec.extractLsb'_append_eq_of_le (by decide)).trans
        ((BitVec.extractLsb'_append_eq_of_add_le (by decide)).trans BitVec.extractLsb'_eq_self))
  · exact (BitVec.extractLsb'_append_eq_of_le (by decide)).trans
      ((BitVec.extractLsb'_append_eq_of_le (by decide)).trans
        ((BitVec.extractLsb'_append_eq_of_le (by decide)).trans BitVec.extractLsb'_eq_self))

/-- The two words of an 8-octet string, laid out again, are the string (10 R21). -/
theorem le32Bytes_le32_pair {v : Octets} (h : v.length = 8) : le32Bytes (le32 v 0) ++ le32Bytes (le32 v 4) = v := by
  rw [le32Bytes_le32, le32Bytes_le32]
  match v, h with
  | [_, _, _, _, _, _, _, _], _ => rfl

/-- `MICKEY` is the two registers `OPR[8..9]` (10 R21). -/
theorem mickey_eq (s : State) : s.mickey = le32Bytes s.opr[8] ++ le32Bytes s.opr[9] := by
  have hregs : (s.opr.toList.drop 8).take 2 = [s.opr[8], s.opr[9]] := by
    apply List.ext_getElem
    · simp
    · intro j hj _
      match j, hj with
      | 0, _ | 1, _ => simp
  simp [State.mickey, State.oprOctets, hregs]

/-- The other registers keep their values when `MICOUT` is written (44 R250). -/
theorem setMicout_opr_other (s : State) (v : Octets) {j : Fin 16} (hj : j.val < 14) :
    (s.setMicout v).opr[j] = s.opr[j] := by
  simp only [State.setMicout_opr, Fin.getElem_fin]
  rw [Vector.getElem_set_ne _ _ (by omega), Vector.getElem_set_ne _ _ (by omega)]

/-- `MICOUT` holds the octets written to it (44 R250). -/
theorem setMicout_micout (s : State) {v : Octets} (h : v.length = 8) :
    le32Bytes (s.setMicout v).opr[14] ++ le32Bytes (s.setMicout v).opr[15] = v := by
  have h14 : (s.setMicout v).opr[14] = le32 v 0 := by
    simp only [State.setMicout_opr]
    rw [Vector.getElem_set_ne _ _ (by decide), Vector.getElem_set_self]
  have h15 : (s.setMicout v).opr[15] = le32 v 4 := Vector.getElem_set_self _
  rw [h14, h15, le32Bytes_le32_pair h]

/-! ### The command -/

/-- A frame whose header is not admitted, or that ends below `OFFSET` (44 R250). -/
theorem exec_tkipMic_malformed (hF : s.frame = some F) (h : headerOk F = false ∨ F.length < s.offset) :
    exec .tkipMic s = .next { s with code := .malformed } := by
  refine (withFrame_some hF).trans ?_
  rcases h with hbad | hshort
  · exact if_pos (by simp [hbad])
  · exact ite_eq_left_iff.mpr fun _ => if_pos hshort

theorem exec_tkipMic_ok (hF : s.frame = some F) (hok : headerOk F = true) (hoff : s.offset ≤ F.length) :
    exec .tkipMic s = .next ((s.setMicout (frameMic s.mickey F (F.drop s.offset))).setCode .ok) :=
  (withFrame_some hF).trans ((if_neg (by simp [hok])).trans (if_neg (Nat.not_lt.mpr hoff)))

/-- Settles O14. -/
theorem tkipMicComputesTheMic : Obligations.TkipMicComputesTheMic := by
  intro s F hF
  refine ⟨rfl, fun hbad => exec_tkipMic_malformed hF (.inl hbad),
    fun _ hshort => exec_tkipMic_malformed hF (.inr hshort),
    fun hok hoff => ⟨_, exec_tkipMic_ok hF hok hoff, fun j hj => setMicout_opr_other s _ hj, ?_⟩⟩
  rw [← mickey_eq]
  exact setMicout_micout s (frameMic_length _ _ _)

end Sys2Proof.Proofs
end

section
/-! SUPPORT. TKIP_ENCRYPT: the transmit cache, and the protected frame the command delivers (30 R110, R112; 43 R229; 44
R243). -/

open Sys2Proof Sys2Proof.Machine Sys2Proof.Claims

namespace Sys2Proof.Proofs

variable {s t : State} {n : BitVec 8} {k : KeySlot} {c : TkipCtx} {F : Octets}

/-- The transmit key mix leaves a valid cache with the words the statements describe: a cache it does not recompute was
valid before (43 R229). -/
theorem txMix_eq (k : KeySlot) (c : TkipCtx) (F : Octets) (tsc : BitVec 48) :
    txMix k.tk c F tsc = { c with txttak := txCache k c F tsc, txttakOk := true } := by
  have htest : (!c.txttakOk || iv16 tsc == 0) = true ↔ c.txttakOk = false ∨ tsc.extractLsb' 0 16 = 0 := by
    simp only [Bool.or_eq_true, Bool.not_eq_true', beq_iff_eq, iv16]
  by_cases h : c.txttakOk = false ∨ tsc.extractLsb' 0 16 = 0
  · rw [txMix, if_pos (htest.mpr h), txCache, if_pos h]
    rfl
  · have hvalid : true = c.txttakOk := by simpa using (not_or.mp h).1
    rw [txMix, if_neg (mt htest.mp h), txCache, if_neg h, hvalid]

/-- The frame TKIP_ENCRYPT puts out for `F` under the incremented counter `tsc`: header, TKIP header, and
body, MIC and ICV encrypted (30 R112; 44 R243). -/
def tkipProtect (k : KeySlot) (c : TkipCtx) (tsc : BitVec 48) (F : Octets) : Octets :=
  F.take (hdrlen F) ++ tkipHeader tsc k.id ++
    (tkipSeal k.tk (txCache k c F tsc) tsc (tkipPlain (k.michaelKey c.txmicOff) F)).1

/-- The slot TKIP_ENCRYPT leaves: counter, transmit cache and RC4 engine are written (44 R243). -/
def tkipSent (k : KeySlot) (c : TkipCtx) (tsc : BitVec 48) (F : Octets) : KeySlot :=
  { k with
    tsc := tsc
    ctx := .tkip { c with
      rc4 := (tkipSeal k.tk (txCache k c F tsc) tsc (tkipPlain (k.michaelKey c.txmicOff) F)).2
      txttak := txCache k c F tsc
      txttakOk := true } }

/-- TKIP_ENCRYPT on a slot with a TKIP context and a frame that is all written (44 R243). -/
theorem exec_tkipEncrypt (hk : s.keys[n.toNat]? = some k) (hc : k.ctx = .tkip c) (hF : s.frame = some F) :
    exec (.tkipEncrypt n) s = tkipEncryptFrame n s k c F := by
  simp only [exec, execTkipEncrypt, withSlot_some hk, hc, withFrame_some hF]

/-- TKIP_ENCRYPT of an admitted frame with room for its output and a counter below its top (44 R243). -/
theorem tkipEncryptFrame_admitted (hok : headerOk F = true) (hroom : ¬ noRoom s (F.length + 20))
    (htop : k.tsc ≠ counterMax) :
    tkipEncryptFrame n s k c F = .next (frameSuccess s (s.keys.set n.toNat (tkipSent k c (k.tsc + 1) F))
      (tkipProtect k c (k.tsc + 1) F)) := by
  simp only [tkipEncryptFrame, hok, noMem_eq_false hroom, htop, Bool.not_true, Bool.false_eq_true, if_false, txMix_eq]
  rfl

/-- A TKIP_ENCRYPT that ends OK admitted the frame and delivered its protected form (44 R243). -/
theorem exec_tkipEncrypt_ok (hk : s.keys[n.toNat]? = some k) (hc : k.ctx = .tkip c) (hF : s.frame = some F)
    (h : exec (.tkipEncrypt n) s = .next t) (hok : t.code = .ok) :
    headerOk F = true ∧ t.outbuf = memOf 0 (tkipProtect k c (k.tsc + 1) F) := by
  rw [exec_tkipEncrypt hk hc hF] at h
  rcases tkipEncryptFrame_next h with ⟨-, rfl⟩ | ⟨-, -, rfl⟩ | ⟨-, -, -, rfl⟩ | ⟨hhdr, -, -, _, rfl, rfl⟩
  · cases hok
  · cases hok
  · cases hok
  · exact ⟨hhdr, by rw [txMix_eq]; rfl⟩

/-- Settles O12. -/
theorem tkipEncryptProtectsTheFrame : Obligations.TkipEncryptProtectsTheFrame := by
  rintro n s k c F _ _ E st _ hk hc hF hok hroom htop rfl rfl rfl hseal
  obtain ⟨rfl, rfl⟩ := Prod.ext_iff.mp hseal
  rw [exec_tkipEncrypt hk hc hF, tkipEncryptFrame_admitted hok hroom htop]
  rfl

end Sys2Proof.Proofs
end

section
/-! SUPPORT. TKIP_DECRYPT: the three parts of the decrypted string and the three ends the command chooses by them (44
R247). -/

open Sys2Proof Sys2Proof.Machine Sys2Proof.Claims

namespace Sys2Proof.Proofs

variable {s : State} {n : BitVec 8} {k : KeySlot} {c : TkipCtx} {F D body rmic ricv : Octets} {st : Rc4}
  {tsc prsc : BitVec 48}

/-- A string cut eight and four octets from its end gives the three parts it was put together from (44 R247). -/
theorem tkipCut_append (hmic : rmic.length = 8) (hicv : ricv.length = 4) :
    tkipCut (body ++ rmic ++ ricv) = { body := body, rmic := rmic, ricv := ricv } := by
  have hlen : (body ++ rmic ++ ricv).length = body.length + 8 + 4 := by
    rw [List.length_append, List.length_append, hmic, hicv]
  have hend : (body ++ rmic).length = body.length + 8 := by rw [List.length_append, hmic]
  simp only [tkipCut, hlen, TkipParts.mk.injEq]
  refine ⟨?_, ?_, ?_⟩
  · exact slice_middle (a := []) (List.append_assoc _ _ _) rfl (by rw [List.length_nil]; omega)
  · exact slice_middle rfl (by omega) (by omega)
  · exact slice_middle (List.append_nil _).symm (by omega) (by omega)

/-- The slot a rejected frame leaves: the key mix and the RC4 run are kept (44 R247; 60 R322). -/
def tkipRejected (k : KeySlot) (c : TkipCtx) (st : Rc4) : KeySlot := { k with ctx := .tkip { c with rc4 := st } }

/-- The slot an accepted frame leaves: the counter is committed and the cache is valid (44 R247). -/
def tkipAccepted (k : KeySlot) (c : TkipCtx) (F : Octets) (tsc : BitVec 48) (st : Rc4) : KeySlot :=
  { k with
    rsc := k.rsc.set (getTid F).toNat tsc (getTid F).isLt
    ctx := .tkip { c with rc4 := st, rxttakOk := true } }

/-- TKIP_DECRYPT after the key mix: first the ICV decides, then the MIC (44 R247). -/
theorem tkipVerify_eq (hrun : (D, st) = rc4Crypt (rc4Keysetup (frameKey k c.rxttak tsc)) (F.drop (hdrlen F + 8)))
    (hcut : tkipCut D = { body := body, rmic := rmic, ricv := ricv }) :
    tkipVerify n s k c F tsc =
      if icv (body ++ rmic) ≠ ricv then
        .next (frameFailure (s.setSlot n.toNat (tkipRejected k c st)) .icvFailTkip)
      else if frameMic (k.michaelKey c.rxmicOff) F body ≠ rmic then
        .next (frameFailure ((s.setSlot n.toNat (tkipRejected k c st)).handler tsc) .micFailTkip)
      else
        .next (frameSuccess s (s.keys.set n.toNat (tkipAccepted k c F tsc st))
          ((F.take (hdrlen F)).set 1 (oct F 1 &&& 0xBF) ++ body)) := by
  have hkey : phase2 k.tk c.rxttak (iv16 tsc) = frameKey k c.rxttak tsc := rfl
  simp only [tkipVerify, hkey, ← hrun, hcut, clearProtected_take]
  rfl

/-- The receive key mix is the one function its description allows (43 R230). -/
theorem rxMixed_unique {c' : TkipCtx} (h : rxMixed k c c' F tsc prsc) : c' = rxMix k.tk c F tsc prsc := by
  obtain ⟨hstale, hfresh⟩ := h
  obtain ⟨hstale', hfresh'⟩ := rxMix_rxMixed k c F tsc prsc
  by_cases hs : rxStale c tsc prsc
  · rw [hstale hs, hstale' hs]
  · rw [hfresh hs, hfresh' hs]

/-- The receive key mix does not touch the Michael offsets (43 R230). -/
@[simp] theorem rxMix_rxmicOff (tk : Octets) (c : TkipCtx) (F : Octets) (tsc prsc : BitVec 48) :
    (rxMix tk c F tsc prsc).rxmicOff = c.rxmicOff := by
  unfold rxMix
  split <;> rfl

/-- Settles O13: the three premises on ICV and MIC choose the three ends. -/
theorem tkipDecryptRecoversTheFrame : Obligations.TkipDecryptRecoversTheFrame := by
  intro n s k c c' F D body rmic ricv st hk hc hF hadm hmix hrun hD hmic hicv
  have hoff : c'.rxmicOff = c.rxmicOff := by rw [rxMixed_unique hmix, rxMix_rxmicOff]
  have hcut : tkipCut D = { body := body, rmic := rmic, ricv := ricv } := by rw [hD, tkipCut_append hmic hicv]
  rw [exec_tkipDecrypt hk hc hF, tkipDecryptFrame_admissible hadm, ← rxMixed_unique hmix,
    tkipVerify_eq hrun hcut, ← hoff]
  refine ⟨fun hi hm => ?_, fun hi => ?_, fun hi hm => ?_⟩
  · exact (if_neg (not_not.mpr hi)).trans (if_neg (not_not.mpr hm))
  · exact if_pos hi
  · exact (if_neg (not_not.mpr hi)).trans (if_pos hm)

end Sys2Proof.Proofs
end

section
/-! SUPPORT. The TKIP round trip: the parts of a protected frame, found again by TKIP_DECRYPT (30 R110 to R112; 44 R243,
R247, R251). -/

open Sys2Proof Sys2Proof.Machine Sys2Proof.Claims

namespace Sys2Proof.Proofs

variable {s : State} {n : BitVec 8} {k kb : KeySlot} {c cb : TkipCtx} {tsc prsc : BitVec 48}
  {F : Octets} {p1k : Ttak}

/-! ### The TKIP header -/

/-- A TKIP header gives back the TSC it was built from (30 R110, R111). -/
theorem tkipTsc_tkipHeader (tsc : BitVec 48) (id : BitVec 2) : tkipTsc (tkipHeader tsc id) = tsc := mkPn_pnOctets tsc

/-- A TKIP header has ExtIV set, as a CCMP header has: octet 3 is the same in both (30 R100, R110). -/
theorem extIv_tkipHeader (tsc : BitVec 48) (id : BitVec 2) : extIv (tkipHeader tsc id) = true :=
  extIv_ccmpHeader tsc id

/-! ### The parts of a protected frame -/

section
variable (hok : headerOk F = true)
include hok

theorem take_hdrlen_length : (F.take (hdrlen F)).length = hdrlen F := List.length_take_of_le (headerOk_hdrlen hok)

/-- The protected frame carries the header it was built from (44 R243). -/
theorem tkipProtect_sameHeader : SameHeader F (tkipProtect k c tsc F) := by
  refine sameHeader_of_take ?_
  rw [tkipProtect, List.append_assoc]
  exact List.take_left' (take_hdrlen_length hok)

/-- The output of TKIP_ENCRYPT is 20 octets longer than its input (30 R112). -/
theorem tkipProtect_length : (tkipProtect k c tsc F).length = F.length + 20 := tkipSealed_length hok

theorem cipherHeader_tkipProtect : cipherHeader (tkipProtect k c tsc F) = tkipHeader tsc k.id := by
  have hhead := take_hdrlen_length hok
  rw [cipherHeader, (tkipProtect_sameHeader hok).hdrlen]
  exact slice_middle rfl hhead.symm (by rw [hhead, tkipHeader_length])

theorem rxTsc_tkipProtect : rxTsc (tkipProtect k c tsc F) = tsc := by
  rw [← tkipTsc_cipherHeader, cipherHeader_tkipProtect hok, tkipTsc_tkipHeader]

theorem tkipPrsc_tkipProtect : tkipPrsc kb (tkipProtect k c tsc F) = tkipPrsc kb F := by
  rw [← counter_tkipSel, (tkipProtect_sameHeader hok).tkipSel, counter_tkipSel]

/-- Above the TKIP header stands the encrypted string (30 R112). -/
theorem tkipProtect_ciphertext :
    (tkipProtect k c tsc F).drop (hdrlen F + 8) =
      (rc4Crypt (rc4Keysetup (frameKey k (txCache k c F tsc) tsc)) (tkipPlain (k.michaelKey c.txmicOff) F)).1 :=
  List.drop_left' (by rw [List.length_append, take_hdrlen_length hok, tkipHeader_length])

/-- Header and body of the protected frame, put together again, are the frame with PROTECTED cleared (44 R251). -/
theorem tkipProtect_recovered :
    ((tkipProtect k c tsc F).take (hdrlen F)).set 1 (oct (tkipProtect k c tsc F) 1 &&& 0xBF) ++ F.drop (hdrlen F) =
      F.set 1 (oct F 1 &&& 0xBF) := by
  have hhead := take_hdrlen_length hok
  have hge := hdrlen_ge F
  have htake : (tkipProtect k c tsc F).take (hdrlen F) = F.take (hdrlen F) := by
    rw [tkipProtect, List.append_assoc]
    exact List.take_left' hhead
  rw [htake, (tkipProtect_sameHeader hok).low (by decide), ← List.set_append_left _ _ (by omega),
    List.take_append_drop]

/-- A protected frame is admissible where its TSC is new and the plain frame has room (44 R247). -/
theorem tkipProtect_admissible (htsc : tkipPrsc kb F < tsc) (hroom : ¬ noRoom s F.length) :
    admissible s (tkipProtect k c tsc F) 20 (rxTsc (tkipProtect k c tsc F))
      (tkipPrsc kb (tkipProtect k c tsc F)) := by
  have hhead := tkipProtect_sameHeader (k := k) (c := c) (tsc := tsc) hok
  have hlen := tkipProtect_length (k := k) (c := c) (tsc := tsc) hok
  have hfit := headerOk_hdrlen hok
  refine ⟨hhead.headerOk hok (by omega), by rw [hhead.hdrlen]; omega, ?_, ?_, ?_⟩
  · rw [← extIv_cipherHeader_iff, cipherHeader_tkipProtect hok, extIv_tkipHeader]
  · rwa [tkipPrsc_tkipProtect hok, rxTsc_tkipProtect hok]
  · rwa [hlen, Nat.add_sub_cancel]

end

/-! ### The round trip -/

/-- Where a cache that is used holds the Phase1 output of the frame, the receive key mix ends with that output, and only
the flag tells whether it was computed anew (43 R230; 70 R371). -/
theorem rxMix_of_cache (hp : p1k = phase1 k.tk (addr2 F) (iv32 tsc))
    (hcache : ¬ rxStale c tsc prsc → c.rxttak = p1k) :
    ∃ flag, rxMix k.tk c F tsc prsc = { c with rxttak := p1k, rxttakOk := flag } := by
  obtain ⟨hstale, hfresh⟩ := rxMix_rxMixed k c F tsc prsc
  by_cases h : rxStale c tsc prsc
  · exact ⟨false, by rw [hstale h, hp]; rfl⟩
  · exact ⟨c.rxttakOk, by rw [hfresh h, ← hcache h]⟩

/-- Under the sender's temporal key and Phase1 output decryption meets the key stream of encryption (41 R157; 44
R251). -/
theorem rc4Crypt_tkipProtect (hok : headerOk F = true) (htk : kb.tk = k.tk) :
    ∃ st, rc4Crypt (rc4Keysetup (frameKey kb (txCache k c F tsc) tsc))
      ((tkipProtect k c tsc F).drop (hdrlen (tkipProtect k c tsc F) + 8)) =
        (tkipPlain (k.michaelKey c.txmicOff) F, st) := by
  have hkey : frameKey kb (txCache k c F tsc) tsc = frameKey k (txCache k c F tsc) tsc :=
    congrArg (phase2 · _ _) htk
  refine ⟨_, Prod.ext ?_ rfl⟩
  rw [hkey, (tkipProtect_sameHeader hok).hdrlen, tkipProtect_ciphertext hok, rc4Crypt_crypt]

/-- TKIP_DECRYPT after the key mix accepts a string whose ICV and MIC are those of its body (44 R247). -/
theorem tkipVerify_accepts {D body rmic ricv : Octets} {st : Rc4}
    (hrun : (D, st) = rc4Crypt (rc4Keysetup (frameKey k c.rxttak tsc)) (F.drop (hdrlen F + 8)))
    (hcut : tkipCut D = { body := body, rmic := rmic, ricv := ricv }) (hicv : icv (body ++ rmic) = ricv)
    (hmic : frameMic (k.michaelKey c.rxmicOff) F body = rmic) :
    tkipVerify n s k c F tsc = .next (frameSuccess s (s.keys.set n.toNat (tkipAccepted k c F tsc st))
      ((F.take (hdrlen F)).set 1 (oct F 1 &&& 0xBF) ++ body)) := by
  rw [tkipVerify_eq hrun hcut, if_neg (not_not.mpr hicv), if_neg (not_not.mpr hmic)]

/-- What the slot of an accepted frame becomes depends on the frame's header alone (45 R283). -/
theorem tkipAccepted_sameHeader {G : Octets} (h : SameHeader F G) (k : KeySlot) (c : TkipCtx) (tsc : BitVec 48)
    (st : Rc4) : tkipAccepted k c G tsc st = tkipAccepted k c F tsc st := by
  simp only [tkipAccepted, h.getTid]

/-- The cleartext of a frame, cut again, is its body, its MIC and its ICV (44 R243, R247). -/
theorem tkipCut_tkipPlain (key F : Octets) :
    tkipCut (tkipPlain key F) =
      { body := F.drop (hdrlen F)
        rmic := frameMic key F (F.drop (hdrlen F))
        ricv := icv (F.drop (hdrlen F) ++ frameMic key F (F.drop (hdrlen F))) } :=
  tkipCut_append (frameMic_length _ _ _) (icv_length _)

/-- TKIP_DECRYPT of a protected frame gives the frame back and commits the TSC it was built with, where the receive key
mix ends with the sender's Phase1 output (44 R251). -/
theorem exec_tkipDecrypt_tkipProtect {c' : TkipCtx} (hk : s.keys[n.toNat]? = some kb) (hc : kb.ctx = .tkip cb)
    (hG : s.frame = some (tkipProtect k c tsc F)) (hok : headerOk F = true) (htsc : tkipPrsc kb F < tsc)
    (hroom : ¬ noRoom s F.length) (htk : kb.tk = k.tk)
    (hmix : rxMix kb.tk cb (tkipProtect k c tsc F) tsc (tkipPrsc kb F) = c') (hwords : c'.rxttak = txCache k c F tsc)
    (hmic : kb.michaelKey c'.rxmicOff = k.michaelKey c.txmicOff) :
    ∃ st, exec (.tkipDecrypt n) s = .next (frameSuccess s (s.keys.set n.toNat (tkipAccepted kb c' F tsc st))
      (F.set 1 (oct F 1 &&& 0xBF))) := by
  have hhead := tkipProtect_sameHeader (k := k) (c := c) (tsc := tsc) hok
  obtain ⟨st, hrun⟩ := rc4Crypt_tkipProtect (c := c) (tsc := tsc) hok htk
  rw [← hwords] at hrun
  refine ⟨st, ?_⟩
  rw [exec_tkipDecrypt hk hc hG, tkipDecryptFrame_admissible (tkipProtect_admissible hok htsc hroom),
    rxTsc_tkipProtect hok, tkipPrsc_tkipProtect hok, hmix,
    tkipVerify_accepts hrun.symm (tkipCut_tkipPlain _ F) rfl (by rw [hhead.frameMic, hmic]), hhead.hdrlen,
    tkipProtect_recovered hok, tkipAccepted_sameHeader hhead]

/-- Settles O34: what the host reads from the output buffer is the protected frame, and the premise on the caches gives
both sides one Phase1 output. -/
theorem tkipDecryptUndoesTkipEncrypt : Obligations.TkipDecryptUndoesTkipEncrypt := by
  intro a b s s' t ka kb ca cb F G p1k hka hca hF henc hok hG hlen hkb hcb hG' halloc hcap htsc htk hmic hp htx hrx
  obtain ⟨hhdr, hout⟩ := exec_tkipEncrypt_ok hka hca hF henc hok
  obtain rfl : G = tkipProtect ka ca (ka.tsc + 1) F := by
    rw [hout, hlen, ← tkipProtect_length hhdr, memReadAll_memOf] at hG
    exact (Option.some.inj hG).symm
  have haddr2 : addr2 (tkipProtect ka ca (ka.tsc + 1) F) = slice F 10 16 :=
    (tkipProtect_sameHeader hhdr).lowPart (by decide)
  obtain ⟨flag, hmix⟩ := rxMix_of_cache (k := kb) (F := tkipProtect ka ca (ka.tsc + 1) F)
    (by rw [haddr2, KeySlot.tk, htk]; exact hp) hrx
  subst htx
  have hroom : ¬ noRoom t F.length := by simp [halloc, hcap]
  exact exec_tkipDecrypt_tkipProtect hkb hcb hG' hhdr htsc hroom htk hmix rfl hmic

end Sys2Proof.Proofs
end

section
/-! SUPPORT. Single-bit errors: CRC-32 tells strings apart that differ in one octet, RC4 carries a change of one
encrypted octet to the same octet of the cleartext, and TKIP_DECRYPT reads nothing else of the encrypted part before it
checks the ICV (41 R157, R166, R168; 44 R247, R251). -/

open Sys2Proof Sys2Proof.Machine Sys2Proof.Claims

namespace Sys2Proof.Proofs

variable {s : State} {n : BitVec 8} {k : KeySlot} {c : TkipCtx} {F G D : Octets} {x : Octet} {tsc : BitVec 48}
  {i j : Nat}

/-! ### Octets of a string -/

theorem oct_take {a : Nat} (hi : i < a) : oct (F.take a) i = oct F i := by
  simp [oct, List.getElem?_take_of_lt hi]

theorem oct_drop {a : Nat} (hi : a ≤ i) : oct (F.drop a) (i - a) = oct F i := by
  simp [oct, Nat.add_sub_cancel' hi]

theorem oct_set_self (hi : i < F.length) : oct (F.set i x) i = x := by
  simp [oct, hi]

theorem set_ne_self (hi : i < F.length) (hx : x ≠ oct F i) : F.set i x ≠ F := fun h =>
  hx (by rw [← oct_set_self (x := x) hi, h])

/-! ### CRC-32 -/

/-- The bit shifted out comes back as the top bit, since bit 31 of the polynomial is set (41 R166). -/
theorem crcBit_msb (v : BitVec 32) : (crcBit v).getLsbD 31 = v.getLsbD 0 := by
  unfold crcBit
  cases v.getLsbD 0 <;> simp

/-- One bit step loses nothing: its top bit tells whether the polynomial was added (41 R166). -/
theorem crcBit_injective : Function.Injective crcBit := by
  intro v w h
  have hlow : v.getLsbD 0 = w.getLsbD 0 := by rw [← crcBit_msb, h, crcBit_msb]
  have hshift : v >>> 1 = w >>> 1 := by
    rw [crcBit, crcBit, hlow] at h
    exact (BitVec.xor_left_inj _).mp h
  refine BitVec.eq_of_getLsbD_eq fun i _ => ?_
  cases i with
  | zero => exact hlow
  | succ i => simpa [Nat.add_comm] using congrArg (BitVec.getLsbD · i) hshift

/-- The update with one octet is determined by the running value with the octet laid over it, and determines it (41
R166). -/
theorem crcOctet_inj {v w : BitVec 32} {a b : Octet} :
    crcOctet v a = crcOctet w b ↔ v ^^^ a.setWidth 32 = w ^^^ b.setWidth 32 := by
  simp only [crcOctet, crcBit_injective.eq_iff]

/-- Two running values that differ stay different over the same data (41 R166). -/
theorem crcUpdate_injective (d : Octets) : Function.Injective (crcUpdate · d) := by
  induction d with
  | nil => exact fun _ _ h => h
  | cons a d ih =>
    intro v w h
    have hstep : crcOctet v a = crcOctet w a := ih h
    exact (BitVec.xor_left_inj _).mp (crcOctet_inj.mp hstep)

/-- A change of one octet changes the CRC (41 R166). -/
theorem crcUpdate_set_ne (v : BitVec 32) {d : Octets} (hi : i < d.length) (hx : x ≠ oct d i) :
    crcUpdate v (d.set i x) ≠ crcUpdate v d := by
  induction d generalizing v i with
  | nil => simp at hi
  | cons a d ih =>
    cases i with
    | zero =>
      intro h
      have hstep : crcOctet v x = crcOctet v a := crcUpdate_injective d h
      have hwide : x.setWidth 32 = a.setWidth 32 := (BitVec.xor_right_inj _).mp (crcOctet_inj.mp hstep)
      have hsame : x = a := by simpa using congrArg (BitVec.setWidth 8) hwide
      exact hx hsame
    | succ i => exact ih (crcOctet v a) (by simpa using hi) hx

theorem le32Bytes_injective : Function.Injective le32Bytes := by
  intro v w h
  refine BitVec.eq_of_getLsbD_eq fun i hi => ?_
  have hoct : v.extractLsb' (8 * (i / 8)) 8 = w.extractLsb' (8 * (i / 8)) 8 := by
    have hlt : i / 8 < 4 := by omega
    simpa only [le32Bytes_get _ hlt, Option.some.injEq] using congrArg (·[i / 8]?) h
  simpa [Nat.mod_lt, Nat.div_add_mod] using congrArg (BitVec.getLsbD · (i % 8)) hoct

/-- A change of one octet changes the ICV (41 R168). -/
theorem icv_set_ne {d : Octets} (hi : i < d.length) (hx : x ≠ oct d i) : icv (d.set i x) ≠ icv d := fun h =>
  crcUpdate_set_ne _ hi hx ((BitVec.xor_left_inj _).mp (le32Bytes_injective h))

/-! ### The ICV check -/

/-- The last four octets of a decrypted string are the ICV of those before them: the check of 44 R247. -/
def IcvRight (D : Octets) : Prop := icv (D.take (D.length - 4)) = D.drop (D.length - 4)

/-- The check of the command, on the three parts it cuts (44 R247). -/
theorem tkipCut_icv_iff (h : 12 ≤ D.length) :
    icv ((tkipCut D).body ++ (tkipCut D).rmic) = (tkipCut D).ricv ↔ IcvRight D := by
  have hfront : (tkipCut D).body ++ (tkipCut D).rmic = D.take (D.length - 4) := by
    have hcut : D.length - 4 = D.length - 12 + (D.length - 4 - (D.length - 12)) := by omega
    rw [hcut, List.take_add]
    rfl
  have hback : (tkipCut D).ricv = D.drop (D.length - 4) := List.take_of_length_le (by simp)
  rw [hfront, hback, IcvRight]

/-- One changed octet makes a right ICV wrong, whether it is one of the data or one of the ICV (44 R251). -/
theorem not_icvRight_set (h : IcvRight D) (hi : i < D.length) (hx : x ≠ oct D i) : ¬ IcvRight (D.set i x) := by
  unfold IcvRight at h ⊢
  rw [List.length_set, List.take_set, List.drop_set]
  by_cases hdata : i < D.length - 4
  · rw [if_pos hdata, ← h]
    exact icv_set_ne (by rw [List.length_take]; omega) (by rwa [oct_take hdata])
  · have hge : D.length - 4 ≤ i := Nat.le_of_not_lt hdata
    rw [if_neg hdata, List.set_eq_of_length_le (by rw [List.length_take]; omega), h]
    exact (set_ne_self (by rw [List.length_drop]; omega) (by rwa [oct_drop hge])).symm

/-! ### One changed octet under RC4 -/

/-- A change of one encrypted octet is a change of the same octet of the cleartext by the same bits (41 R157). -/
theorem rc4Crypt_set (st : Rc4) (d : Octets) (i : Nat) (m : Octet) :
    (rc4Crypt st (d.set i (oct d i ^^^ m))).1 = (rc4Crypt st d).1.set i (oct (rc4Crypt st d).1 i ^^^ m) := by
  induction d generalizing st i with
  | nil => rfl
  | cons a d ih =>
    cases i with
    | zero =>
      have hswap : a ^^^ m ^^^ (rc4Next st).2 = a ^^^ (rc4Next st).2 ^^^ m := by
        rw [BitVec.xor_assoc, BitVec.xor_comm m, ← BitVec.xor_assoc]
      exact congrArg (· :: _) hswap
    | succ i => exact congrArg (_ :: ·) (ih _ _)

/-! ### TKIP_DECRYPT and the encrypted part -/

/-- The string TKIP_DECRYPT checks: everything after the TKIP header, decrypted (44 R247). -/
def tkipCleartext (k : KeySlot) (c : TkipCtx) (F : Octets) (tsc : BitVec 48) : Octets :=
  (rc4Crypt (rc4Keysetup (frameKey k c.rxttak tsc)) (F.drop (hdrlen F + 8))).1

theorem tkipCleartext_length (k : KeySlot) (c : TkipCtx) (F : Octets) (tsc : BitVec 48) :
    (tkipCleartext k c F tsc).length = F.length - (hdrlen F + 8) := by
  rw [tkipCleartext, rc4Crypt_length, List.length_drop]

/-- A wrong ICV ends the command (44 R247). -/
theorem tkipVerify_icv_wrong (hlen : hdrlen F + 20 ≤ F.length) (h : ¬ IcvRight (tkipCleartext k c F tsc)) :
    ∃ t, tkipVerify n s k c F tsc = .next t ∧ t.code = .icvFailTkip := by
  have hcut := tkipCut_icv_iff (D := tkipCleartext k c F tsc) (by rw [tkipCleartext_length]; omega)
  exact ⟨_, (tkipVerify_eq rfl rfl).trans (if_pos (mt hcut.mp h)), rfl⟩

/-- `G` is `F` but for octets of the encrypted part (30 R112). -/
structure SameClear (F G : Octets) : Prop where
  length : G.length = F.length
  front : G.take (hdrlen F + 8) = F.take (hdrlen F + 8)

section
variable (h : SameClear F G)
include h

theorem SameClear.sameHeader : SameHeader F G :=
  sameHeader_of_take (slice_eq_of_take (i := 0) h.front (Nat.le_add_right _ _))

theorem SameClear.cipherHeader : cipherHeader G = cipherHeader F := by
  rw [Sys2Proof.cipherHeader, h.sameHeader.hdrlen]
  exact slice_eq_of_take h.front (Nat.le_refl _)

theorem SameClear.rxTsc : rxTsc G = rxTsc F := by
  rw [← tkipTsc_cipherHeader, ← tkipTsc_cipherHeader, h.cipherHeader]

theorem SameClear.tkipPrsc : tkipPrsc k G = tkipPrsc k F := by
  rw [← counter_tkipSel, h.sameHeader.tkipSel, counter_tkipSel]

/-- No check before the cipher work reads the encrypted part (44 R247). -/
theorem SameClear.admissible (hF : admissible s F 20 (Claims.rxTsc F) (Claims.tkipPrsc k F)) :
    Claims.admissible s G 20 (Claims.rxTsc G) (Claims.tkipPrsc k G) := by
  rw [admissible_tkip_iff] at hF ⊢
  obtain ⟨hok, hlen, hiv, htsc, hroom⟩ := hF
  rw [h.sameHeader.hdrlen, h.sameHeader.tkipSel, h.cipherHeader, h.length]
  exact ⟨h.sameHeader.headerOk hok h.length.ge, hlen, hiv, htsc, hroom⟩

/-- Nor does the receive key mix (43 R230). -/
theorem SameClear.rxMix (tk : Octets) (c : TkipCtx) (tsc prsc : BitVec 48) :
    rxMix tk c G tsc prsc = rxMix tk c F tsc prsc := by
  have haddr2 : addr2 G = addr2 F := h.sameHeader.lowPart (by decide)
  rw [Machine.rxMix, haddr2, Machine.rxMix]

end

/-- A change of an encrypted octet leaves the rest of the frame. -/
theorem sameClear_set (hj : hdrlen F + 8 ≤ j) (x : Octet) : SameClear F (F.set j x) :=
  ⟨List.length_set, List.take_set_of_le hj⟩

/-- It changes the same octet of the decrypted string by the same bits (41 R157). -/
theorem tkipCleartext_set (k : KeySlot) (c : TkipCtx) (tsc : BitVec 48) (m : Octet) (hj : hdrlen F + 8 ≤ j) :
    tkipCleartext k c (F.set j (oct F j ^^^ m)) tsc =
      (tkipCleartext k c F tsc).set (j - (hdrlen F + 8))
        (oct (tkipCleartext k c F tsc) (j - (hdrlen F + 8)) ^^^ m) := by
  rw [tkipCleartext, (sameClear_set hj _).sameHeader.hdrlen, List.drop_set, if_neg (Nat.not_lt.mpr hj),
    ← oct_drop hj, rc4Crypt_set]
  rfl

/-- The frame after the host has written one octet of it anew (20 R60). -/
theorem frame_write_octet (hF : s.frame = some F) (hj : j < F.length) (x : Octet) :
    ({ s with inbuf := memWrite s.inbuf j x } : State).frame = some (F.set j x) := by
  obtain ⟨hlen, hread⟩ := memReadAll_eq_some.mp hF
  refine memReadAll_eq_some.mpr ⟨List.length_set.trans hlen, fun i hi => ?_⟩
  rw [Nat.zero_add]
  by_cases hij : i = j
  · rw [hij, memRead_memWrite_same, List.getElem?_set_self hj]
  · rw [memRead_memWrite_other _ _ _ _ hij, List.getElem?_set_ne (Ne.symm hij), ← hread i hi, Nat.zero_add]

/-- TKIP_DECRYPT of an admissible frame with a wrong ICV (44 R247). -/
theorem exec_tkipDecrypt_icv_wrong (hk : s.keys[n.toNat]? = some k) (hc : k.ctx = .tkip c) (hF : s.frame = some F)
    (hadm : admissible s F 20 (rxTsc F) (tkipPrsc k F))
    (h : ¬ IcvRight (tkipCleartext k (rxMix k.tk c F (rxTsc F) (tkipPrsc k F)) F (rxTsc F))) :
    ∃ t, exec (.tkipDecrypt n) s = .next t ∧ t.code = .icvFailTkip := by
  obtain ⟨-, hlen, -⟩ := admissible_tkip_iff.mp hadm
  rw [exec_tkipDecrypt hk hc hF, tkipDecryptFrame_admissible hadm]
  exact tkipVerify_icv_wrong hlen h

/-- Settles O38: the flip reaches one octet of the decrypted string, and the ICV tells every change of one octet. -/
theorem singleBitFlipsFailTheIcv : Obligations.SingleBitFlipsFailTheIcv := by
  intro n s t k c F j b hk hc hF hadm h hcode hj hjF hb
  have hright : IcvRight (tkipCleartext k (rxMix k.tk c F (rxTsc F) (tkipPrsc k F)) F (rxTsc F)) := by
    by_contra hwrong
    obtain ⟨t', ht', hfail⟩ := exec_tkipDecrypt_icv_wrong hk hc hF hadm hwrong
    rw [h] at ht'
    cases ht'
    exact hcode hfail
  have hsame := sameClear_set hj (oct F j ^^^ BitVec.twoPow 8 b)
  have hbit : BitVec.twoPow 8 b ≠ 0#8 := fun hzero => by simpa [hb] using congrArg (BitVec.getLsbD · b) hzero
  refine exec_tkipDecrypt_icv_wrong (s := { s with inbuf := memWrite s.inbuf j _ }) hk hc (frame_write_octet hF hjF _)
    (hsame.admissible hadm) ?_
  rw [hsame.rxTsc, hsame.tkipPrsc, hsame.rxMix, tkipCleartext_set _ _ _ _ hj]
  exact not_icvRight_set hright (by rw [tkipCleartext_length]; omega) (by simpa using hbit)

end Sys2Proof.Proofs
end

section
/-! SUPPORT. The counters of a slot: what a command that fails keeps, what a successful encrypt sends and what a
successful decrypt commits (45 R281 to R286). -/

open Sys2Proof Sys2Proof.Machine Sys2Proof.Claims

namespace Sys2Proof.Proofs

variable {s t : State} {n : BitVec 8} {k k' : KeySlot} {F : Octets} {sel sel' : CounterSel} {pn : BitVec 48}

/-! ### Committing a receive counter -/

/-- A commit leaves every counter but the selected one alone (45 R285). -/
theorem counter_commit_other (h : sel' ≠ sel) : (k.commit sel pn).counter sel' = k.counter sel' := by
  cases sel with
  | mgmt =>
    cases sel' with
    | mgmt => exact absurd rfl h
    | tid _ => rfl
  | tid i =>
    cases sel' with
    | mgmt => rfl
    | tid j =>
      have hij : i.toNat ≠ j.toNat := fun he => h (congrArg CounterSel.tid (BitVec.eq_of_toNat_eq he.symm))
      exact Vector.getElem_set_ne i.isLt j.isLt hij

/-- A commit leaves the transmit counter alone (45 R285). -/
@[simp] theorem commit_tsc (k : KeySlot) (sel : CounterSel) (pn : BitVec 48) : (k.commit sel pn).tsc = k.tsc := by
  cases sel <;> rfl

/-! ### What a command does to the counters -/

/-- Every slot has the counters it had (45 R286). -/
def CountersKept (s t : State) : Prop :=
  ∀ (m : Nat) (k : KeySlot), s.keys[m]? = some k → ∃ k', t.keys[m]? = some k' ∧ sameCounters k k'

theorem countersKept_of_keys (h : t.keys = s.keys) : CountersKept s t := fun _ k hk =>
  ⟨k, by rw [h, hk], rfl, rfl, rfl⟩

/-- A write of one slot that keeps its counters keeps those of all slots. -/
theorem countersKept_of_set (hk : s.keys[n.toNat]? = some k) (h : t.keys = s.keys.set n.toNat k')
    (hsame : sameCounters k k') : CountersKept s t := fun m k₀ hk₀ => by
  by_cases hm : n.toNat = m
  · subst hm
    cases hk.symm.trans hk₀
    exact ⟨k', by rw [h, setSlot_get_same hk], hsame⟩
  · exact ⟨k₀, by rw [h, List.getElem?_set_ne hm, hk₀], rfl, rfl, rfl⟩

/-- The transmit counter was below its ceiling and is one higher; the receive counters are as before (45 R281, R282). -/
structure CounterSent (k k' : KeySlot) : Prop where
  below : k.tsc ≠ counterMax
  tsc : k'.tsc = k.tsc + 1
  rsc : k'.rsc = k.rsc
  mgmtRsc : k'.mgmtRsc = k.mgmtRsc

/-- The receive counter `sel` was below `pn` and is now `pn`; every other counter is as before (45 R284, R285). -/
structure CounterReceived (sel : CounterSel) (pn : BitVec 48) (k k' : KeySlot) : Prop where
  below : k.counter sel < pn
  raised : k'.counter sel = pn
  others : ∀ sel', sel' ≠ sel → k'.counter sel' = k.counter sel'
  tsc : k'.tsc = k.tsc

/-- A frame command on slot `n` fails and keeps every counter, or succeeds and writes its slot as `Success` says. -/
inductive CountersAfter (s t : State) (n : BitVec 8) (Success : KeySlot → KeySlot → Prop) : Prop
  | failed (hcode : t.code ≠ .ok) (hkept : CountersKept s t)
  | succeeded {k k' : KeySlot} (hcode : t.code = .ok) (hk : s.keys[n.toNat]? = some k)
      (hkeys : t.keys = s.keys.set n.toNat k') (hw : Success k k')

section
variable {Success : KeySlot → KeySlot → Prop}

theorem CountersAfter.kept (h : CountersAfter s t n Success) (hcode : t.code ≠ .ok) : CountersKept s t := by
  cases h with
  | failed _ hkept => exact hkept
  | succeeded hok => exact absurd hok hcode

theorem CountersAfter.slot (h : CountersAfter s t n Success) (hok : t.code = .ok) (hk : s.keys[n.toNat]? = some k) :
    ∃ k', t.keys[n.toNat]? = some k' ∧ Success k k' := by
  cases h with
  | failed hcode => exact absurd hok hcode
  | succeeded _ hk₀ hkeys hw =>
    cases hk.symm.trans hk₀
    exact ⟨_, by rw [hkeys, setSlot_get_same hk], hw⟩

/-- A frame command that fails by 60 R322 without its exceptions keeps every counter. -/
theorem raise_countersAfter {kind : CmdKind} {c : Status} (hc : c ≠ .ok) :
    CountersAfter s (s.raise kind c) n Success := by
  cases kind <;> exact .failed hc (countersKept_of_keys rfl)

end

/-- The commit of a decrypt command, whatever it writes into the slot's context (42 R190; 44 R247). -/
theorem commit_counterReceived {k₀ : KeySlot} (hsame : sameCounters k k₀) (hpn : k.counter sel < pn) :
    CounterReceived sel pn k (k₀.commit sel pn) := by
  obtain ⟨htsc, hrsc, hmgmt⟩ := hsame
  have hcounter : ∀ sel', k₀.counter sel' = k.counter sel' := fun sel' => by
    cases sel' with
    | mgmt => exact hmgmt
    | tid i => simp only [KeySlot.counter, KeySlot.rscAt, hrsc]
  exact ⟨hpn, counter_commit _ _ _, fun sel' hne => (counter_commit_other hne).trans (hcounter sel'),
    (commit_tsc _ _ _).trans htsc⟩

theorem ccmpEncrypt_countersAfter (h : execCcmpEncrypt n s = .next t) : CountersAfter s t n CounterSent := by
  rcases execCcmpEncrypt_next h with ⟨-, rfl⟩ | ⟨_, -, -, rfl⟩ | ⟨k, rk, F, hk, -, -, h⟩
  · exact raise_countersAfter (by decide)
  · exact raise_countersAfter (by decide)
  rcases ccmpEncryptFrame_next h with ⟨-, rfl⟩ | ⟨-, -, rfl⟩ | ⟨-, -, -, rfl⟩ | ⟨-, -, htop, rfl⟩
  · exact raise_countersAfter (by decide)
  · exact raise_countersAfter (by decide)
  · exact raise_countersAfter (by decide)
  · exact .succeeded rfl hk rfl ⟨htop, rfl, rfl, rfl⟩

theorem tkipEncrypt_countersAfter (h : execTkipEncrypt n s = .next t) : CountersAfter s t n CounterSent := by
  rcases execTkipEncrypt_next h with ⟨-, rfl⟩ | ⟨_, -, -, rfl⟩ | ⟨k, c, F, hk, -, -, h⟩
  · exact raise_countersAfter (by decide)
  · exact raise_countersAfter (by decide)
  rcases tkipEncryptFrame_next h with ⟨-, rfl⟩ | ⟨-, -, rfl⟩ | ⟨-, -, -, rfl⟩ | ⟨-, -, htop, _, -, rfl⟩
  · exact raise_countersAfter (by decide)
  · exact raise_countersAfter (by decide)
  · exact raise_countersAfter (by decide)
  · exact .succeeded rfl hk rfl ⟨htop, rfl, rfl, rfl⟩

theorem ccmpDecrypt_countersAfter (h : execCcmpDecrypt n s = .next t) :
    CountersAfter s t n fun k k' => ∃ F, s.frame = some F ∧ CounterReceived (ccmpSel F) (rxPn F) k k' := by
  rcases execCcmpDecrypt_next h with ⟨-, rfl⟩ | ⟨_, -, -, rfl⟩ | ⟨k, rk, F, hk, -, hF, h⟩
  · exact raise_countersAfter (by decide)
  · exact raise_countersAfter (by decide)
  rcases ccmpDecryptFrame_next h with ⟨c, hmem, rfl⟩ | ⟨-, -, -, hpn, -, -, rfl⟩
  · exact raise_countersAfter (by rintro rfl; simp at hmem)
  · rw [ccmpPn_cipherHeader] at hpn ⊢
    exact .succeeded rfl hk rfl ⟨F, hF, commit_counterReceived ⟨rfl, rfl, rfl⟩ hpn⟩

/-- The two exceptions of 60 R322 write the slot's context alone, so they keep its counters (45 R286). -/
theorem tkipDecrypt_countersAfter (h : execTkipDecrypt n s = .next t) :
    CountersAfter s t n fun k k' => ∃ F, s.frame = some F ∧ CounterReceived (tkipSel F) (rxTsc F) k k' := by
  rcases execTkipDecrypt_next h with ⟨-, rfl⟩ | ⟨_, -, -, rfl⟩ | ⟨k, c, F, hk, -, hF, h⟩
  · exact raise_countersAfter (by decide)
  · exact raise_countersAfter (by decide)
  rcases tkipDecryptFrame_next h with ⟨c', hmem, rfl⟩ | ⟨-, -, -, htsc, -, h⟩
  · exact raise_countersAfter (by rintro rfl; simp at hmem)
  rw [tkipTsc_cipherHeader] at htsc h
  obtain ⟨e, -, ⟨-, rfl⟩ | ⟨-, -, rfl⟩ | ⟨-, -, rfl⟩⟩ := tkipVerify_next h
  · exact .failed (by simp) (countersKept_of_set hk rfl ⟨rfl, rfl, rfl⟩)
  · exact .failed (by simp) (countersKept_of_set hk (handler_keys _ _) ⟨rfl, rfl, rfl⟩)
  · exact .succeeded rfl hk rfl ⟨F, hF, commit_counterReceived ⟨rfl, rfl, rfl⟩ htsc⟩

/-- A command that is no frame command and fails writes no slot (60 R322). -/
theorem Ends.failed_keys {i : Instr} (h : Ends s i t) (hf : isFrame i = false) (hcode : t.code ≠ .ok) :
    t.keys = s.keys := by
  cases h with
  | illegal | otherFailed => rfl
  | frameFailed hf' => simp [hf'] at hf
  | delivered _ _ hw | icvFailed _ _ hw | micFailed _ _ hw => simp [hw.isFrame] at hf
  | _ => exact absurd rfl hcode

/-! ### The statements -/

/-- Settles O27. -/
theorem failedCommandsKeepEveryCounter : Obligations.FailedCommandsKeepEveryCounter := by
  intro i s t h hcode
  have other : isFrame i = false → CountersKept s t := fun hf =>
    countersKept_of_keys ((exec_ends h).failed_keys hf hcode)
  cases i with
  | ccmpEncrypt n => exact (ccmpEncrypt_countersAfter h).kept hcode
  | ccmpDecrypt n => exact (ccmpDecrypt_countersAfter h).kept hcode
  | tkipEncrypt n => exact (tkipEncrypt_countersAfter h).kept hcode
  | tkipDecrypt n => exact (tkipDecrypt_countersAfter h).kept hcode
  | _ => exact other rfl

/-- Below its ceiling the transmit counter does not wrap (45 R280, R282). -/
theorem toNat_add_one_of_ne_counterMax {v : BitVec 48} (h : v ≠ counterMax) : (v + 1).toNat = v.toNat + 1 := by
  have htop : v.toNat ≠ 2 ^ 48 - 1 := fun he => h (BitVec.eq_of_toNat_eq (he.trans BitVec.toNat_allOnes.symm))
  bv_omega

/-- Settles O28: the ceiling check of 45 R282 is what keeps the counter from wrapping. -/
theorem encryptAdvancesTheCounterByOne : Obligations.EncryptAdvancesTheCounterByOne := by
  intro n i s t k hi h hok hk
  have hafter : CountersAfter s t n CounterSent := by
    simp only [List.mem_cons, List.not_mem_nil, or_false] at hi
    rcases hi with rfl | rfl
    · exact ccmpEncrypt_countersAfter h
    · exact tkipEncrypt_countersAfter h
  obtain ⟨k', hk', hsent⟩ := hafter.slot hok hk
  exact ⟨k', hk', by rw [hsent.tsc, toNat_add_one_of_ne_counterMax hsent.below], hsent.rsc, hsent.mgmtRsc⟩

/-- Every `rsc[j]` but the selected one is as before (45 R285). -/
theorem CounterReceived.rsc_other (h : CounterReceived sel pn k k') (j : Fin 16)
    (hj : CounterSel.tid (BitVec.ofFin j) ≠ sel) : k'.rsc[j] = k.rsc[j] := h.others _ hj

/-- A management frame's commit leaves all sixteen `rsc` alone (45 R283, R285). -/
theorem CounterReceived.rsc_of_mgmt (h : CounterReceived .mgmt pn k k') : k'.rsc = k.rsc :=
  Vector.ext fun j hj => h.rsc_other ⟨j, hj⟩ (by simp)

/-- A commit by TID leaves `mgmt_rsc` and the other fifteen `rsc` alone (45 R283, R285). -/
theorem CounterReceived.others_of_tid {i : BitVec 4} (h : CounterReceived (.tid i) pn k k') :
    k'.mgmtRsc = k.mgmtRsc ∧ ∀ j : Fin 16, j.val ≠ i.toNat → k'.rsc[j] = k.rsc[j] := by
  refine ⟨h.others .mgmt (by simp), fun j hj => h.rsc_other j fun he => hj ?_⟩
  cases he
  rfl

/-- Settles O29. -/
theorem decryptRaisesTheSelectedCounter : Obligations.DecryptRaisesTheSelectedCounter := by
  intro n s t k F hk hF hok
  constructor
  · intro h
    obtain ⟨k', hk', F', hF', hrecv⟩ := (ccmpDecrypt_countersAfter h).slot hok hk
    cases hF.symm.trans hF'
    refine ⟨by simpa only [counter_ccmpSel] using hrecv.below, k', hk', hrecv.tsc,
      by simpa only [counter_ccmpSel] using hrecv.raised, fun hm => ?_, fun hm => ?_⟩
    · rw [ccmpSel, if_pos hm] at hrecv
      exact hrecv.rsc_of_mgmt
    · rw [ccmpSel, hm] at hrecv
      exact hrecv.others_of_tid
  · intro h
    obtain ⟨k', hk', F', hF', hrecv⟩ := (tkipDecrypt_countersAfter h).slot hok hk
    cases hF.symm.trans hF'
    exact ⟨hrecv.below, k', hk', hrecv.tsc, hrecv.raised, hrecv.others_of_tid⟩

end Sys2Proof.Proofs
end

section
/-! SUPPORT. The MIC-failure handler as a whole next state: MIC_FAILURE drives the tracker, and nothing else but a
TKIP_DECRYPT that ends MIC_FAIL_TKIP reaches it (46 R300 to R308). -/

open Sys2Proof Sys2Proof.Machine Sys2Proof.Claims

namespace Sys2Proof.Proofs

variable {s t : State} {i : Instr} {tsc : BitVec 48}

/-! ### The events of an escalation -/

/-- Events emitted one after the other are appended as far as the queue has room; the rest are dropped (20 R63). -/
theorem foldl_emit_eq (es : List Event) (s : State) :
    es.foldl State.emit s = { s with evtq := s.evtq ++ es.take (s.cfg.evtcap - s.evtq.length) } := by
  induction es generalizing s with
  | nil => simp
  | cons e es ih =>
    rw [List.foldl_cons, ih, emit_eq]
    by_cases hroom : s.evtq.length < s.cfg.evtcap
    · have hcap : s.cfg.evtcap - s.evtq.length = s.cfg.evtcap - (s.evtq.length + 1) + 1 := by omega
      simp [hroom, hcap]
    · have hcap : s.cfg.evtcap - s.evtq.length = 0 := by omega
      simp [hroom, hcap]

/-- An access point's escalation sets the flag and emits one event (46 R304). -/
theorem escalate_of_ap (hm : s.opmode = .ap) (tsc : BitVec 48) :
    s.escalate tsc = [⟨.apDeauthTkipStas, 0⟩].foldl State.emit s.setCountermeasures := by
  simp [State.escalate, hm, State.escalateAp]

/-- A station's escalation emits four events, the first with the TSC recorded before (46 R305). -/
theorem escalate_of_sta (hm : s.opmode = .sta) (tsc : BitVec 48) :
    s.escalate tsc = [⟨.eapolKeyReq, s.micfailTsc⟩, ⟨.eapolKeyReq, tsc⟩, ⟨.deauthBss, 0⟩, ⟨.scan, 0⟩].foldl
      State.emit s := by
  simp [State.escalate, hm, State.escalateSta]

/-! ### Which run the handler takes -/

/-- A failure escalates where step 2's condition fails: a prior one, less than 60 seconds ago (46 R302). -/
theorem outsideWindow_eq_false_iff : s.outsideWindow = false ↔
    s.micfailSeen = true ∧ s.ticks.toNat < s.micfailTick.toNat + 60 * s.cfg.hz := by
  simp [State.outsideWindow]

theorem outsideWindow_iff : s.outsideWindow = true ↔
    s.micfailSeen = false ∨ s.micfailTick.toNat + 60 * s.cfg.hz ≤ s.ticks.toNat := by
  simp [State.outsideWindow]

/-- While the flag is set the handler is suppressed (46 R301). -/
theorem handler_of_active (hact : s.countermeasuresActive = true) (tsc : BitVec 48) : s.handler tsc = s := if_pos hact

/-- Outside the window the handler records the failure alone (46 R302, R303). -/
theorem handler_of_outside (hidle : s.countermeasuresActive = false) (hout : s.outsideWindow = true) (tsc : BitVec 48) :
    s.handler tsc = s.recordFailure tsc := by
  simp [State.handler, hidle, hout]

/-- Inside the window it escalates and then updates the record (46 R304 to R306). -/
theorem handler_of_inside (hidle : s.countermeasuresActive = false) (hin : s.outsideWindow = false) (tsc : BitVec 48) :
    s.handler tsc = (s.escalate tsc).recordFailure tsc := by
  simp [State.handler, hidle, hin]

/-! ### The command -/

/-- MIC_FAILURE runs the handler with `TSC_IN` and ends OK (46 R308). -/
theorem exec_micFailure (s : State) : exec .micFailure s = .next ((s.handler s.tscIn).setCode .ok) := rfl

/-- Settles O15: one run of the handler a clause; the queue of the last two is that of `foldl_emit_eq`. -/
theorem micFailureDrivesTheTracker : Obligations.MicFailureDrivesTheTracker := by
  rintro s tsc (rfl : tsc = s.tscIn)
  refine ⟨rfl, fun hact => ?_, fun hidle hout => ?_, fun hidle hseen hin hm => ?_, fun hidle hseen hin hm => ?_⟩
  · rw [exec_micFailure, handler_of_active hact]
    rfl
  · rw [exec_micFailure, handler_of_outside hidle (outsideWindow_iff.mpr hout)]
    rfl
  · rw [exec_micFailure, handler_of_inside hidle (outsideWindow_eq_false_iff.mpr ⟨hseen, hin⟩), escalate_of_ap hm,
      foldl_emit_eq]
    rfl
  · rw [exec_micFailure, handler_of_inside hidle (outsideWindow_eq_false_iff.mpr ⟨hseen, hin⟩), escalate_of_sta hm,
      foldl_emit_eq]
    rfl

/-! ### What reaches the tracker -/

/-- The countermeasures state and the event queue of `s` stand in `t` (46 R300). -/
structure TrackerKept (s t : State) : Prop where
  ifflags : t.ifflags = s.ifflags
  micfailTick : t.micfailTick = s.micfailTick
  micfailTsc : t.micfailTsc = s.micfailTsc
  micfailSeen : t.micfailSeen = s.micfailSeen
  evtq : t.evtq = s.evtq

/-- Every end of a command keeps the tracker but the two that run the handler (46 R300, R307). -/
theorem Ends.trackerKept (h : Ends s i t) (hi : i ≠ .micFailure) (hcode : t.code ≠ .micFailTkip) : TrackerKept s t := by
  cases h with
  | micReported => exact absurd rfl hi
  | micFailed => exact absurd rfl hcode
  | _ => exact ⟨rfl, rfl, rfl, rfl, rfl⟩

/-- Settles O24. -/
theorem onlyMicFailuresReachTheTracker : Obligations.OnlyMicFailuresReachTheTracker := by
  intro i s t h hi hcode
  obtain ⟨hflags, htick, htsc, hseen, hq⟩ := (exec_ends h).trackerKept hi hcode
  exact ⟨hflags, htick, htsc, hseen, hq⟩

end Sys2Proof.Proofs
end

section
/-! SUPPORT. The order in which frame commands fail: the key check, the checks the two encrypt commands share, and those
the two decrypt commands share (60 R324, R326, R331). -/

open Sys2Proof Sys2Proof.Machine Sys2Proof.Claims

namespace Sys2Proof.Proofs

variable {s : State} {n : BitVec 8} {k : KeySlot} {F : Octets} {ov : Nat}

/-! ### The key check -/

theorem ctx_of_cipher_ccmp (h : k.cipher = .ccmp) : ∃ rk, k.ctx = .ccmp rk := by
  cases hctx : k.ctx with
  | absent | tkip => simp [KeySlot.cipher, hctx] at h
  | ccmp rk => exact ⟨rk, rfl⟩

theorem ctx_of_cipher_tkip (h : k.cipher = .tkip) : ∃ c, k.ctx = .tkip c := by
  cases hctx : k.ctx with
  | absent | ccmp => simp [KeySlot.cipher, hctx] at h
  | tkip c => exact ⟨c, rfl⟩

/-- The CCMP frame commands fail BAD_KEY on a slot without a CCMP key, whatever the frame (60 R324). -/
theorem ccmp_badKey (hk : s.keys[n.toNat]? = some k) (hc : k.cipher ≠ .ccmp) :
    exec (.ccmpEncrypt n) s = .next (frameFailure s .badKey) ∧
    exec (.ccmpDecrypt n) s = .next (frameFailure s .badKey) := by
  cases hctx : k.ctx with
  | ccmp rk => simp [KeySlot.cipher, hctx] at hc
  | absent | tkip => simp only [exec, execCcmpEncrypt, execCcmpDecrypt, withSlot_some hk, hctx]; exact ⟨rfl, rfl⟩

/-- The TKIP frame commands fail BAD_KEY on a slot without a TKIP key, whatever the frame (60 R324). -/
theorem tkip_badKey (hk : s.keys[n.toNat]? = some k) (hc : k.cipher ≠ .tkip) :
    exec (.tkipEncrypt n) s = .next (frameFailure s .badKey) ∧
    exec (.tkipDecrypt n) s = .next (frameFailure s .badKey) := by
  cases hctx : k.ctx with
  | tkip c => simp [KeySlot.cipher, hctx] at hc
  | absent | ccmp => simp only [exec, execTkipEncrypt, execTkipDecrypt, withSlot_some hk, hctx]; exact ⟨rfl, rfl⟩

theorem noMem_eq_true_iff {m : Nat} : s.noMem m = true ↔ noRoom s m := by
  simp [State.noMem]

/-! ### The checks of the encrypt commands -/

/-- What an encrypt command with overhead `ov` checks after the key, in the order of 60 R331; `rest` is the cipher
work. -/
def encryptChecks (s : State) (k : KeySlot) (F : Octets) (ov : Nat) (rest : Result) : Result :=
  if !headerOk F then .next (frameFailure s .malformed)
  else if s.noMem (F.length + ov) then .next (frameFailure s .nomem)
  else if k.tsc = counterMax then .next (frameFailure s .pnExhausted)
  else rest

theorem exec_ccmpEncrypt_checks (hk : s.keys[n.toNat]? = some k) (hF : s.frame = some F) (hc : k.cipher = .ccmp) :
    ∃ rest, exec (.ccmpEncrypt n) s = encryptChecks s k F 16 rest := by
  obtain ⟨rk, hctx⟩ := ctx_of_cipher_ccmp hc
  exact ⟨_, exec_ccmpEncrypt hk hctx hF⟩

theorem exec_tkipEncrypt_checks (hk : s.keys[n.toNat]? = some k) (hF : s.frame = some F) (hc : k.cipher = .tkip) :
    ∃ rest, exec (.tkipEncrypt n) s = encryptChecks s k F 20 rest := by
  obtain ⟨c, hctx⟩ := ctx_of_cipher_tkip hc
  exact ⟨_, exec_tkipEncrypt hk hctx hF⟩

section
variable {rest : Result}

theorem encryptChecks_malformed (h : headerOk F = false) :
    encryptChecks s k F ov rest = .next (frameFailure s .malformed) := by
  simp [encryptChecks, h]

theorem encryptChecks_nomem (hok : headerOk F = true) (hroom : noRoom s (F.length + ov)) :
    encryptChecks s k F ov rest = .next (frameFailure s .nomem) := by
  simp [encryptChecks, hok, noMem_eq_true_iff.mpr hroom]

theorem encryptChecks_pnExhausted (hok : headerOk F = true) (hroom : ¬ noRoom s (F.length + ov))
    (htop : k.tsc = counterMax) : encryptChecks s k F ov rest = .next (frameFailure s .pnExhausted) := by
  simp [encryptChecks, hok, noMem_eq_false hroom, htop]

end

/-- Settles O16. -/
theorem encryptFailsInOrder : Obligations.EncryptFailsInOrder := by
  intro n s k i ci ov hi hk
  simp only [List.mem_cons, List.not_mem_nil, or_false, Prod.mk.injEq] at hi
  have hkey : k.cipher ≠ ci → exec i s = .next (frameFailure s .badKey) := by
    rcases hi with ⟨rfl, rfl, rfl⟩ | ⟨rfl, rfl, rfl⟩
    · exact fun hc => (ccmp_badKey hk hc).1
    · exact fun hc => (tkip_badKey hk hc).1
  refine ⟨hkey, fun F hF hc => ?_⟩
  obtain ⟨rest, hexec⟩ : ∃ rest, exec i s = encryptChecks s k F ov rest := by
    rcases hi with ⟨rfl, rfl, rfl⟩ | ⟨rfl, rfl, rfl⟩
    · exact exec_ccmpEncrypt_checks hk hF hc
    · exact exec_tkipEncrypt_checks hk hF hc
  rw [hexec]
  exact ⟨encryptChecks_malformed, encryptChecks_nomem, encryptChecks_pnExhausted⟩

/-! ### The checks of the decrypt commands -/

/-- What a decrypt command with overhead `ov` checks after the key and before any cipher work, in the order of 60 R331:
`pn` is the received counter value, `prsc` the one it must exceed, `rest` the cipher work. -/
def decryptChecks (s : State) (F : Octets) (ov : Nat) (pn prsc : BitVec 48) (rest : Result) : Result :=
  if !headerOk F then .next (frameFailure s .malformed)
  else if F.length < hdrlen F + ov then .next (frameFailure s .malformed)
  else if !extIv (cipherHeader F) then .next (frameFailure s .noExtIv)
  else if pn ≤ prsc then .next (frameFailure s .replay)
  else if s.noMem (F.length - ov) then .next (frameFailure s .nomem)
  else rest

theorem exec_ccmpDecrypt_checks (hk : s.keys[n.toNat]? = some k) (hF : s.frame = some F) (hc : k.cipher = .ccmp) :
    ∃ rest, exec (.ccmpDecrypt n) s = decryptChecks s F 16 (rxPn F) (ccmpPrsc k F) rest := by
  obtain ⟨rk, hctx⟩ := ctx_of_cipher_ccmp hc
  rw [exec_ccmpDecrypt hk hctx hF, ← ccmpPn_cipherHeader, ← counter_ccmpSel]
  exact ⟨_, rfl⟩

theorem exec_tkipDecrypt_checks (hk : s.keys[n.toNat]? = some k) (hF : s.frame = some F) (hc : k.cipher = .tkip) :
    ∃ rest, exec (.tkipDecrypt n) s = decryptChecks s F 20 (rxTsc F) (tkipPrsc k F) rest := by
  obtain ⟨c, hctx⟩ := ctx_of_cipher_tkip hc
  rw [exec_tkipDecrypt hk hctx hF, ← tkipTsc_cipherHeader, ← counter_tkipSel]
  exact ⟨_, rfl⟩

section
variable {pn prsc : BitVec 48} {rest : Result}

theorem decryptChecks_header (h : headerOk F = false) :
    decryptChecks s F ov pn prsc rest = .next (frameFailure s .malformed) := by
  simp [decryptChecks, h]

theorem decryptChecks_short (hok : headerOk F = true) (hshort : F.length < hdrlen F + ov) :
    decryptChecks s F ov pn prsc rest = .next (frameFailure s .malformed) := by
  simp [decryptChecks, hok, hshort]

theorem decryptChecks_noExtIv (hok : headerOk F = true) (hlen : hdrlen F + ov ≤ F.length) (hiv : ¬ rxExtIv F) :
    decryptChecks s F ov pn prsc rest = .next (frameFailure s .noExtIv) := by
  simp [decryptChecks, hok, hlen.not_gt, mt extIv_cipherHeader_iff.mp hiv]

theorem decryptChecks_replay (hok : headerOk F = true) (hlen : hdrlen F + ov ≤ F.length) (hiv : rxExtIv F)
    (hpn : pn ≤ prsc) : decryptChecks s F ov pn prsc rest = .next (frameFailure s .replay) := by
  simp [decryptChecks, hok, hlen.not_gt, extIv_cipherHeader_iff.mpr hiv, hpn]

theorem decryptChecks_nomem (hok : headerOk F = true) (hlen : hdrlen F + ov ≤ F.length) (hiv : rxExtIv F)
    (hpn : prsc < pn) (hroom : noRoom s (F.length - ov)) :
    decryptChecks s F ov pn prsc rest = .next (frameFailure s .nomem) := by
  simp [decryptChecks, hok, hlen.not_gt, extIv_cipherHeader_iff.mpr hiv, BitVec.not_le.mpr hpn,
    noMem_eq_true_iff.mpr hroom]

end

/-- Settles O17. -/
theorem decryptFailsInOrder : Obligations.DecryptFailsInOrder := by
  intro n s k i ci ov pnOf prscOf hi hk
  simp only [Prod.mk.injEq] at hi
  have hkey : k.cipher ≠ ci → exec i s = .next (frameFailure s .badKey) := by
    rcases hi with ⟨⟨rfl, rfl, rfl⟩, rfl, rfl⟩ | ⟨⟨rfl, rfl, rfl⟩, rfl, rfl⟩
    · exact fun hc => (ccmp_badKey hk hc).2
    · exact fun hc => (tkip_badKey hk hc).2
  refine ⟨hkey, fun F hF hc => ?_⟩
  obtain ⟨rest, hexec⟩ : ∃ rest, exec i s = decryptChecks s F ov (pnOf F) (prscOf k F) rest := by
    rcases hi with ⟨⟨rfl, rfl, rfl⟩, rfl, rfl⟩ | ⟨⟨rfl, rfl, rfl⟩, rfl, rfl⟩
    · exact exec_ccmpDecrypt_checks hk hF hc
    · exact exec_tkipDecrypt_checks hk hF hc
  rw [hexec]
  exact ⟨decryptChecks_header, decryptChecks_short, decryptChecks_noExtIv, decryptChecks_replay, decryptChecks_nomem⟩

end Sys2Proof.Proofs
end

section
/-! SUPPORT. The end of every legal command by the table of codes, and what a failure changes (60 R321, R322). -/

open Sys2Proof Sys2Proof.Machine Sys2Proof.Claims

namespace Sys2Proof.Proofs

/-! ### The ends -/

/-- The ends of a legal command: success, a failure that writes no more than 60 R322 lists for its kind, and the two
exceptions of that rule. A plain failure has a code the command's row of 60 R321 marks. -/
inductive TableEnds (s : State) : Instr → State → Prop
  | succeeded {i t} (hok : t.code = .ok) : TableEnds s i t
  | otherFailed {i c} (hf : isFrame i = false) (hc : c ∈ codesOf i) : TableEnds s i (s.raise .other c)
  | frameFailed {i c} (hf : isFrame i = true) (hc : c ∈ codesOf i) (hplain : c ∉ [Status.icvFailTkip, .micFailTkip]) :
      TableEnds s i (s.raise .frame c)
  | icvFailed {n k c c'} (hk : s.keys[n.toNat]? = some k) (hctx : k.ctx = .tkip c) (hw : ReceiveWrite c c') :
      TableEnds s (.tkipDecrypt n) ((s.setSlot n.toNat { k with ctx := .tkip c' }).raise .frame .icvFailTkip)
  | micFailed {n k c c'} (hk : s.keys[n.toNat]? = some k) (hctx : k.ctx = .tkip c) (hw : ReceiveWrite c c')
      (tsc : BitVec 48) : TableEnds s (.tkipDecrypt n)
        (((s.setSlot n.toNat { k with ctx := .tkip c' }).handler tsc).raise .frame .micFailTkip)

variable {i : Instr} {s t : State} {n : BitVec 8}

section
variable (hn : s.keys[n.toNat]? ≠ none)
include hn

/-- A key command on an existing slot has one failure and one success (42 R180, R181; 44 R241, R242). -/
theorem keyCommand_tableEnds {P Q : KeySlot → Prop} {c : Status} {u : State} (hf : isFrame i = false)
    (hc : c ∈ codesOf i) (hu : u.code = .ok)
    (h : (s.keys[n.toNat]? = none ∧ t = s.illegal) ∨
      (∃ k, s.keys[n.toNat]? = some k ∧ P k ∧ t = s.raise .other c) ∨
      (∃ k, s.keys[n.toNat]? = some k ∧ Q k ∧ t = u)) : TableEnds s i t := by
  rcases h with ⟨hk, -⟩ | ⟨_, -, -, rfl⟩ | ⟨_, -, -, rfl⟩
  · exact absurd hk hn
  · exact .otherFailed hf hc
  · exact .succeeded hu

theorem ccmpEncrypt_tableEnds (h : execCcmpEncrypt n s = .next t) : TableEnds s (.ccmpEncrypt n) t := by
  rcases execCcmpEncrypt_next h with ⟨hk, -⟩ | ⟨_, -, -, rfl⟩ | ⟨k, rk, F, -, -, -, h⟩
  · exact absurd hk hn
  · exact .frameFailed rfl (by simp [codesOf]) (by decide)
  rcases ccmpEncryptFrame_next h with ⟨-, rfl⟩ | ⟨-, -, rfl⟩ | ⟨-, -, -, rfl⟩ | ⟨-, -, -, rfl⟩
  · exact .frameFailed rfl (by simp [codesOf]) (by decide)
  · exact .frameFailed rfl (by simp [codesOf]) (by decide)
  · exact .frameFailed rfl (by simp [codesOf]) (by decide)
  · exact .succeeded rfl

theorem tkipEncrypt_tableEnds (h : execTkipEncrypt n s = .next t) : TableEnds s (.tkipEncrypt n) t := by
  rcases execTkipEncrypt_next h with ⟨hk, -⟩ | ⟨_, -, -, rfl⟩ | ⟨k, c, F, -, -, -, h⟩
  · exact absurd hk hn
  · exact .frameFailed rfl (by simp [codesOf]) (by decide)
  rcases tkipEncryptFrame_next h with ⟨-, rfl⟩ | ⟨-, -, rfl⟩ | ⟨-, -, -, rfl⟩ | ⟨-, -, -, _, -, rfl⟩
  · exact .frameFailed rfl (by simp [codesOf]) (by decide)
  · exact .frameFailed rfl (by simp [codesOf]) (by decide)
  · exact .frameFailed rfl (by simp [codesOf]) (by decide)
  · exact .succeeded rfl

theorem ccmpDecrypt_tableEnds (h : execCcmpDecrypt n s = .next t) : TableEnds s (.ccmpDecrypt n) t := by
  rcases execCcmpDecrypt_next h with ⟨hk, -⟩ | ⟨_, -, -, rfl⟩ | ⟨k, rk, F, -, -, -, h⟩
  · exact absurd hk hn
  · exact .frameFailed rfl (by simp [codesOf]) (by decide)
  rcases ccmpDecryptFrame_next h with ⟨c, hmem, rfl⟩ | ⟨-, -, -, -, -, -, rfl⟩
  · have hrow : ∀ c ∈ [Status.malformed, .noExtIv, .replay, .nomem, .authFailCcmp],
        c ∈ codesOf (.ccmpDecrypt n) ∧ c ∉ [Status.icvFailTkip, .micFailTkip] := by simp [codesOf]
    exact .frameFailed rfl (hrow c hmem).1 (hrow c hmem).2
  · exact .succeeded rfl

theorem tkipDecrypt_tableEnds (h : execTkipDecrypt n s = .next t) : TableEnds s (.tkipDecrypt n) t := by
  rcases execTkipDecrypt_next h with ⟨hk, -⟩ | ⟨_, -, -, rfl⟩ | ⟨k, c, F, hk, hctx, -, h⟩
  · exact absurd hk hn
  · exact .frameFailed rfl (by simp [codesOf]) (by decide)
  rcases tkipDecryptFrame_next h with ⟨c', hmem, rfl⟩ | ⟨-, -, -, -, -, h⟩
  · have hrow : ∀ c ∈ [Status.malformed, .noExtIv, .replay, .nomem],
        c ∈ codesOf (.tkipDecrypt n) ∧ c ∉ [Status.icvFailTkip, .micFailTkip] := by simp [codesOf]
    exact .frameFailed rfl (hrow c' hmem).1 (hrow c' hmem).2
  have hw := fun st => rxMix_receiveWrite k.tk c F (tkipTsc (cipherHeader F)) (k.counter (tkipSel F)) st
  obtain ⟨e, rfl, ⟨-, rfl⟩ | ⟨-, -, rfl⟩ | ⟨-, -, rfl⟩⟩ := tkipVerify_next h
  · exact .icvFailed hk hctx (hw _ _ (rc4Frame_table _ _))
  · exact .micFailed hk hctx (hw _ _ (rc4Frame_table _ _)) _
  · exact .succeeded rfl

end

/-- Every next state of a legal command is one of the ends of `TableEnds`. -/
theorem exec_tableEnds (hw : i.wellFormed s.nkeys = true) (h : exec i s = .next t) : TableEnds s i t := by
  cases i with
  | ccmpSetKey n =>
    exact keyCommand_tableEnds (slot_exists hw rfl) rfl (by simp [codesOf]) rfl (execCcmpSetKey_next h)
  | ccmpDeleteKey n =>
    exact keyCommand_tableEnds (slot_exists hw rfl) rfl (by simp [codesOf]) rfl (execCcmpDeleteKey_next h)
  | ccmpEncrypt n => exact ccmpEncrypt_tableEnds (slot_exists hw rfl) h
  | ccmpDecrypt n => exact ccmpDecrypt_tableEnds (slot_exists hw rfl) h
  | tkipSetKey n =>
    exact keyCommand_tableEnds (slot_exists hw rfl) rfl (by simp [codesOf]) rfl (execTkipSetKey_next h)
  | tkipDeleteKey n =>
    exact keyCommand_tableEnds (slot_exists hw rfl) rfl (by simp [codesOf]) rfl (execTkipDeleteKey_next h)
  | tkipEncrypt n => exact tkipEncrypt_tableEnds (slot_exists hw rfl) h
  | tkipDecrypt n => exact tkipDecrypt_tableEnds (slot_exists hw rfl) h
  | tkipMic =>
    obtain ⟨F, -, ⟨-, rfl⟩ | ⟨-, -, rfl⟩⟩ := execTkipMic_next h
    · exact .otherFailed rfl (by simp [codesOf])
    · exact .succeeded rfl
  | micFailure => cases h; exact .succeeded rfl

/-- Every command's row of the table marks OK (60 R321). -/
theorem ok_mem_codesOf (i : Instr) : Status.ok ∈ codesOf i := by cases i <;> exact List.mem_cons_self

/-- Settles O20. -/
theorem commandsEndWithTheCodesOfTheTable : Obligations.CommandsEndWithTheCodesOfTheTable := by
  intro i s t hw h
  cases exec_tableEnds hw h with
  | succeeded hok => exact hok ▸ ok_mem_codesOf i
  | otherFailed _ hc => exact hc
  | frameFailed _ hc => exact hc
  | icvFailed => simp [codesOf]
  | micFailed => simp [codesOf]

/-- A frame command that runs the handler on another slot file and then fails differs from a plain failure in the slots
and in the handler's own fields alone (46 R300; 60 R322). -/
theorem handler_raise_frame {keys : List KeySlot} {tsc : BitVec 48} {c : Status}
    (ht : t = (({ s with keys := keys } : State).handler tsc).raise .frame c) :
    t = frameFailure { s with keys := t.keys, micfailSeen := t.micfailSeen, micfailTick := t.micfailTick,
                              micfailTsc := t.micfailTsc, ifflags := t.ifflags, evtq := t.evtq } c := by
  obtain ⟨q, fl, tk, ts, sn, heq⟩ := handler_eq { s with keys := keys } tsc
  rw [ht, heq]
  rfl

/-- Settles O19: the two exceptions of the rule are the ends of TKIP_DECRYPT after its key mix. -/
theorem failureChangesOnlyWhatTheRuleLists : Obligations.FailureChangesOnlyWhatTheRuleLists := by
  intro i s t hwf h hcode
  cases exec_tableEnds hwf h with
  | succeeded hok => exact absurd hok hcode
  | otherFailed hf =>
    exact ⟨fun _ => rfl, fun hf' => by simp [hf] at hf', fun hf' => by simp [hf] at hf'⟩
  | frameFailed hf _ hplain =>
    exact ⟨fun hf' => by simp [hf] at hf', fun _ _ _ => rfl, fun _ hc => absurd (by simpa using hc) hplain⟩
  | @icvFailed n k c c' hk hctx hw =>
    exact ⟨nofun, fun _ hicv => absurd rfl hicv, fun _ _ =>
      ⟨n, k, c, c', rfl, hk, hctx, hw.same, rfl, fun _ => rfl, nofun⟩⟩
  | @micFailed n k c c' hk hctx hw tsc =>
    exact ⟨nofun, fun _ _ hmic => absurd rfl hmic, fun _ _ =>
      ⟨n, k, c, c', rfl, hk, hctx, hw.same, handler_keys _ _, nofun, fun _ => handler_raise_frame rfl⟩⟩

end Sys2Proof.Proofs
end

section
/-! SUPPORT. Every command ends in a next state once its frame is all written (20 R65; 60 R332). -/

open Sys2Proof Sys2Proof.Machine Sys2Proof.Claims

namespace Sys2Proof.Proofs

variable {i : Instr} {s : State} {n : BitVec 8} {k : KeySlot} {F : Octets}

/-- The answer is a next state: neither a fault nor a refusal. -/
def Answers (r : Result) : Prop := ∃ t, r = .next t

theorem answers_next (t : State) : Answers (.next t) := ⟨t, rfl⟩

theorem answers_fail (kind : CmdKind) (c : Status) (s : State) : Answers (fail kind c s) := ⟨_, rfl⟩

theorem answers_ite {p : Prop} [Decidable p] {a b : Result} (ha : Answers a) (hb : Answers b) :
    Answers (if p then a else b) := by
  split
  · exact ha
  · exact hb

/-- A slot number the block does not have is answered too, as ILLEGAL (30 R92). -/
theorem withSlot_answers {f : KeySlot → Result} (h : ∀ k, Answers (f k)) : Answers (withSlot n s f) := by
  cases hk : s.keys[n.toNat]? with
  | none => exact ⟨_, withSlot_none hk⟩
  | some k => rw [withSlot_some hk]; exact h k

/-- A frame all of whose octets are written is no fault (20 R65). -/
theorem withFrame_answers (hF : s.frame = some F) {f : Octets → Result} (h : ∀ F, Answers (f F)) :
    Answers (withFrame s f) := by
  rw [withFrame_some hF]
  exact h F

@[simp] theorem ccmpEncryptFrame_answers (rk : List Block) (F : Octets) : Answers (ccmpEncryptFrame n s k rk F) :=
  answers_ite (answers_fail ..) <| answers_ite (answers_fail ..) <| answers_ite (answers_fail ..) (answers_next _)

@[simp] theorem tkipEncryptFrame_answers (c : TkipCtx) (F : Octets) : Answers (tkipEncryptFrame n s k c F) :=
  answers_ite (answers_fail ..) <| answers_ite (answers_fail ..) <| answers_ite (answers_fail ..) (answers_next _)

@[simp] theorem ccmpDecryptFrame_answers (rk : List Block) (F : Octets) : Answers (ccmpDecryptFrame n s k rk F) :=
  answers_ite (answers_fail ..) <| answers_ite (answers_fail ..) <| answers_ite (answers_fail ..) <|
    answers_ite (answers_fail ..) <| answers_ite (answers_fail ..) <| answers_ite (answers_fail ..) (answers_next _)

theorem tkipVerify_answers (c : TkipCtx) (F : Octets) (tsc : BitVec 48) : Answers (tkipVerify n s k c F tsc) :=
  answers_ite (answers_fail ..) <| answers_ite (answers_fail ..) (answers_next _)

@[simp] theorem tkipDecryptFrame_answers (c : TkipCtx) (F : Octets) : Answers (tkipDecryptFrame n s k c F) :=
  answers_ite (answers_fail ..) <| answers_ite (answers_fail ..) <| answers_ite (answers_fail ..) <|
    answers_ite (answers_fail ..) <| answers_ite (answers_fail ..) (tkipVerify_answers _ _ _)

/-- The commands that read no frame answer in every state (60 R332). -/
theorem exec_answers_of_no_frame (hf : isFrame i = false) (hi : i ≠ .tkipMic) : Answers (exec i s) := by
  cases i with
  | ccmpSetKey | tkipSetKey | ccmpDeleteKey | tkipDeleteKey =>
    exact withSlot_answers fun _ => answers_ite (answers_fail ..) (answers_next _)
  | micFailure => exact answers_next _
  | tkipMic => exact absurd rfl hi
  | ccmpEncrypt | ccmpDecrypt | tkipEncrypt | tkipDecrypt => simp [isFrame] at hf

/-- Every command answers on a frame that is all written (60 R332; 20 R65). -/
theorem exec_answers_of_frame (hF : s.frame = some F) (i : Instr) : Answers (exec i s) := by
  cases i with
  | ccmpEncrypt | ccmpDecrypt | tkipEncrypt | tkipDecrypt =>
    refine withSlot_answers fun k => ?_
    split
    · exact answers_fail ..
    · exact answers_fail ..
    · exact withFrame_answers hF (by simp)
  | tkipMic =>
    exact withFrame_answers hF fun _ =>
      answers_ite (answers_fail ..) <| answers_ite (answers_fail ..) (answers_next _)
  | ccmpSetKey | ccmpDeleteKey | tkipSetKey | tkipDeleteKey | micFailure =>
    exact exec_answers_of_no_frame rfl (by simp)

/-- Settles O40. -/
theorem everyCommandEndsInANextState : Obligations.EveryCommandEndsInANextState := by
  refine fun i s => ⟨exec_answers_of_no_frame, fun hwritten => ?_⟩
  have hF : s.frame ≠ none := fun hnone => by
    obtain ⟨a, ha, hr⟩ := frame_eq_none.mp hnone
    exact hwritten a ha hr
  obtain ⟨F, hF⟩ := Option.ne_none_iff_exists'.mp hF
  exact exec_answers_of_frame hF i

end Sys2Proof.Proofs
end

section
/-! SUPPORT. The block after reset: the stated values, the invariant, and the commands while all slots are empty (70
R360, R361; 60 R324). -/

open Sys2Proof Sys2Proof.Machine Sys2Proof.Claims

namespace Sys2Proof.Proofs

/-! ### The reset state -/

section
variable {cfg : Config} {m : Nat}

theorem resetWith_nkeys : (State.resetWith cfg m).nkeys = m := List.length_replicate

/-- Right after reset a reset event changes nothing, so what holds after every reset event holds there (70 R360). -/
theorem applyReset_resetWith : (State.resetWith cfg m).applyReset = State.resetWith cfg m := by
  rw [State.applyReset, resetWith_nkeys]
  rfl

/-- With open parameters within their bounds the state right after reset meets the invariant (70 R360; 00 R7). -/
theorem resetWith_inv (h : cfg.ok m = true) : (State.resetWith cfg m).Inv := by
  have hparams : (State.resetWith cfg m).ParamsOk := by rwa [State.ParamsOk, resetWith_nkeys]
  rw [← applyReset_resetWith] at hparams ⊢
  obtain ⟨hbuffers, hlengths⟩ := buffersOk_and_lengthsOk_iff.mpr
    ⟨applyReset_inputOk (State.resetWith cfg m), applyReset_outputOk _⟩
  exact ⟨hparams, hbuffers, hlengths, applyReset_slotsOk _, applyReset_trackerOk _⟩

end

/-- Settles O60. -/
theorem resetMeetsTheInvariant : Obligations.ResetMeetsTheInvariant :=
  resetWith_inv (cfg := defaultConfig) (m := defaultSlots) (by decide)

/-- Settles O45: the clauses on single fields read off the record the reset state is. -/
theorem resetGivesTheStatedValues : Obligations.ResetGivesTheStatedValues := by
  have hevent : ∀ (s : State) (rest : List HostAccess), s.host = .resetEvent :: rest →
      step s = .next ({ s with host := rest } : State).applyReset := fun _ _ h => step_access h
  have hslots : ∀ k ∈ State.reset.keys, k = KeySlot.empty := fun _ => List.eq_of_mem_replicate
  exact ⟨hevent, rfl, rfl, rfl, rfl, rfl, rfl, rfl, rfl, rfl, rfl, rfl, rfl, hslots, rfl, rfl, rfl⟩

/-! ### All slots empty -/

variable {i : Instr} {s : State} {n : BitVec 8}

/-- While all slots are empty a legal command names an empty slot (30 R92; 70 R361). -/
theorem named_slot_empty (hempty : s.keys = List.replicate s.nkeys KeySlot.empty) (hw : i.wellFormed s.nkeys = true)
    (hn : i.slot? = some n) : s.keys[n.toNat]? = some KeySlot.empty := by
  obtain ⟨k, hk⟩ := Option.ne_none_iff_exists'.mp (slot_exists hw hn)
  have hmem : k ∈ List.replicate s.nkeys KeySlot.empty := hempty ▸ List.mem_of_getElem? hk
  rw [hk, List.eq_of_mem_replicate hmem]

/-- A frame command whose slot is empty fails BAD_KEY: the slot holds neither cipher's key (60 R324). -/
theorem frame_badKey_of_empty (hf : isFrame i = true)
    (hk : ∀ n, i.slot? = some n → s.keys[n.toNat]? = some KeySlot.empty) :
    exec i s = .next (frameFailure s .badKey) := by
  have hccmp : KeySlot.empty.cipher ≠ .ccmp := nofun
  have htkip : KeySlot.empty.cipher ≠ .tkip := nofun
  cases i with
  | ccmpEncrypt n => exact (ccmp_badKey (hk n rfl) hccmp).1
  | ccmpDecrypt n => exact (ccmp_badKey (hk n rfl) hccmp).2
  | tkipEncrypt n => exact (tkip_badKey (hk n rfl) htkip).1
  | tkipDecrypt n => exact (tkip_badKey (hk n rfl) htkip).2
  | ccmpSetKey | ccmpDeleteKey | tkipSetKey | tkipDeleteKey | tkipMic | micFailure => simp [isFrame] at hf

/-- Settles O46: the last two clauses, on the commands that name no slot, hold whatever the slots hold. -/
theorem emptySlotsRefuseFrames : Obligations.EmptySlotsRefuseFrames := by
  intro i s hempty hw
  refine ⟨fun hf => frame_badKey_of_empty hf fun _ => named_slot_empty hempty hw, fun slot hi => ?_, ?_, ?_⟩
  · rcases List.mem_pair.mp hi with rfl | rfl
    · obtain ⟨-, -, -, hdelete⟩ := ccmpDeleteKeyEmptiesTheSlot slot s _ (named_slot_empty hempty hw rfl)
      exact hdelete rfl
    · obtain ⟨-, -, -, hdelete⟩ := tkipDeleteKeyEmptiesTheSlot slot s _ (named_slot_empty hempty hw rfl)
      exact hdelete rfl
  · rintro F hF hok hoff rfl
    exact ⟨_, exec_tkipMic_ok hF hok hoff, rfl⟩
  · rintro rfl
    exact ⟨_, exec_micFailure s, rfl⟩

end Sys2Proof.Proofs
end
